-- ==== Sys2Proof/Word.lean ====
section
/-! DEFINITION. The word types of the block (00_scope.md R6, R9) and the group of four that the lane registers, the
operand registers and the x86 block words come in (10_state.md R20, R31). -/

namespace Sys2Proof

/-- `u8`, an input byte (R6, R9). -/
abbrev Byte := BitVec 8

/-- `u32` (R9). -/
abbrev U32 := BitVec 32

/-- `u64` (R9). -/
abbrev U64 := BitVec 64

/-- `u128` (R9). -/
abbrev U128 := BitVec 128

/-- Four like things numbered 0 to 3: OPH0..3, OPK0..3, L[0..3], and the four x86 lanes h1..h4 or words k1..k4. -/
structure Quad (α : Type) where
  q0 : α
  q1 : α
  q2 : α
  q3 : α
deriving DecidableEq, Repr

/-- Element `j` of a group of four. -/
def Quad.get {α : Type} (q : Quad α) : Fin 4 → α
  | 0 => q.q0
  | 1 => q.q1
  | 2 => q.q2
  | 3 => q.q3

/-- The group with element `j` replaced. -/
def Quad.set {α : Type} (q : Quad α) (j : Fin 4) (v : α) : Quad α :=
  match j with
  | 0 => { q with q0 := v }
  | 1 => { q with q1 := v }
  | 2 => { q with q2 := v }
  | 3 => { q with q3 := v }

/-- A function applied to each of the four. -/
def Quad.map {α β : Type} (f : α → β) (q : Quad α) : Quad β := ⟨f q.q0, f q.q1, f q.q2, f q.q3⟩

/-- The group whose four elements are all `v`. -/
def Quad.all {α : Type} (v : α) : Quad α := ⟨v, v, v, v⟩

end Sys2Proof
end

