-- ==== Sys2Proof/Syntax.lean ====
section
/-! DEFINITION. The commands (30_encoding.md R91, opcode_table.json) and the error codes a command can be rejected
with (60_exceptions.md R241). -/

namespace Sys2Proof

/-- The 17 commands, in the order of the operation map (R91). `amt` is the rotate amount of R90, bits [10:5]. -/
inductive Instr where
  /-- HASH32, `op` = 0x01 (R160). -/
  | hash32
  /-- HASH128_X64, `op` = 0x02 (R192). -/
  | hash128X64
  /-- HASH128_X86, `op` = 0x03 (R222). -/
  | hash128X86
  /-- ROTL32, `op` = 0x04 (R125). -/
  | rotl32 (amt : BitVec 6)
  /-- ROTL64, `op` = 0x05 (R126). -/
  | rotl64 (amt : BitVec 6)
  /-- SCRAMBLE32, `op` = 0x06 (R127). -/
  | scramble32
  /-- FMIX32, `op` = 0x07 (R128). -/
  | fmix32
  /-- FMIX64, `op` = 0x08 (R129). -/
  | fmix64
  /-- MIX32, `op` = 0x09 (R157). -/
  | mix32
  /-- TAIL32, `op` = 0x0A (R158). -/
  | tail32
  /-- FIN32, `op` = 0x0B (R159). -/
  | fin32
  /-- MIX64, `op` = 0x0C (R189). -/
  | mix64
  /-- TAIL64, `op` = 0x0D (R190). -/
  | tail64
  /-- FIN64, `op` = 0x0E (R191). -/
  | fin64
  /-- MIX86, `op` = 0x0F (R219). -/
  | mix86
  /-- TAIL86, `op` = 0x10 (R220). -/
  | tail86
  /-- FIN86, `op` = 0x11 (R221). -/
  | fin86
deriving DecidableEq, Repr

/-- The error codes of R241. Codes 5 to 15 are reserved and never produced, so they have no constructor. -/
inductive ErrCode where
  /-- NONE, code 0. -/
  | noError
  /-- ILLEGAL_OP, code 1: a reserved `op`. -/
  | illegalOp
  /-- RESERVED_FIELD, code 2: reserved bits, or `amt` on an op that does not use it. -/
  | reservedField
  /-- BAD_ROTATE, code 3: a rotate amount out of range. -/
  | badRotate
  /-- LEN_RANGE, code 4: a full hash with KEY_LEN above BUF_BYTES. -/
  | lenRange
deriving DecidableEq, Repr

end Sys2Proof
end

