-- ==== Sys2Proof/WellFormed.lean ====
section
/-! DEFINITION. Which commands have legal fields (30_encoding.md R92). -/

namespace Sys2Proof

/-- A command whose fields are legal: ROTL32 rotates by 1 to 31 and ROTL64 by 1 to 63 (R92); the other commands have
no field. -/
def Instr.wf : Instr → Bool
  | .hash32 => true
  | .hash128X64 => true
  | .hash128X86 => true
  | .rotl32 amt => decide (1 ≤ amt.toNat ∧ amt.toNat ≤ 31)
  | .rotl64 amt => decide (1 ≤ amt.toNat ∧ amt.toNat ≤ 63)
  | .scramble32 => true
  | .fmix32 => true
  | .fmix64 => true
  | .mix32 => true
  | .tail32 => true
  | .fin32 => true
  | .mix64 => true
  | .tail64 => true
  | .fin64 => true
  | .mix86 => true
  | .tail86 => true
  | .fin86 => true

end Sys2Proof
end

