-- ==== Sys2Proof/Decode.lean ====
section
/-! DEFINITION. The command word: its fields (30_encoding.md R90), the check of R94, the decoder, and the encoder. -/

namespace Sys2Proof

/-- `w[4:0]`, the operation selector (R90). -/
def opField (w : U32) : BitVec 5 := w.extractLsb' 0 5

/-- `w[10:5]`, the rotate amount (R90). -/
def amtField (w : U32) : BitVec 6 := w.extractLsb' 5 6

/-- `w[31:11]`, reserved, must be zero (R90, R93). -/
def reservedBits (w : U32) : BitVec 21 := w.extractLsb' 11 21

/-- `enc(op, amt) = zext_32(op) | (zext_32(amt) << 5)` (R90). -/
def enc (op : BitVec 5) (amt : BitVec 6) : U32 := op.setWidth 32 ||| (amt.setWidth 32 <<< 5)

/-- `decode_check(w)` as R94 writes it: the error code of a command word, or NONE. -/
def decodeCheck (w : U32) : ErrCode :=
  let op := (opField w).toNat
  let amt := (amtField w).toNat
  if op = 0x00 ∨ 0x12 ≤ op then .illegalOp
  else if reservedBits w ≠ 0 then .reservedField
  else if op = 0x04 then (if amt = 0 ∨ 32 ≤ amt then .badRotate else .noError)
  else if op = 0x05 then (if amt = 0 then .badRotate else .noError)
  else if amt ≠ 0 then .reservedField
  else .noError

/-- The row of the operation map an `op` selects (R91); none for a reserved one (R98). -/
def rowOf (op : BitVec 5) (amt : BitVec 6) : Option Instr :=
  match op.toNat with
  | 0x01 => some .hash32
  | 0x02 => some .hash128X64
  | 0x03 => some .hash128X86
  | 0x04 => some (.rotl32 amt)
  | 0x05 => some (.rotl64 amt)
  | 0x06 => some .scramble32
  | 0x07 => some .fmix32
  | 0x08 => some .fmix64
  | 0x09 => some .mix32
  | 0x0A => some .tail32
  | 0x0B => some .fin32
  | 0x0C => some .mix64
  | 0x0D => some .tail64
  | 0x0E => some .fin64
  | 0x0F => some .mix86
  | 0x10 => some .tail86
  | 0x11 => some .fin86
  | _ => none

/-- The `op` column of the operation map (R91). -/
def Instr.opcode : Instr → BitVec 5
  | .hash32 => 0x01
  | .hash128X64 => 0x02
  | .hash128X86 => 0x03
  | .rotl32 _ => 0x04
  | .rotl64 _ => 0x05
  | .scramble32 => 0x06
  | .fmix32 => 0x07
  | .fmix64 => 0x08
  | .mix32 => 0x09
  | .tail32 => 0x0A
  | .fin32 => 0x0B
  | .mix64 => 0x0C
  | .tail64 => 0x0D
  | .fin64 => 0x0E
  | .mix86 => 0x0F
  | .tail86 => 0x10
  | .fin86 => 0x11

/-- The `amt` field of a command: its rotate amount, or 0 where the op does not use it (R92). -/
def Instr.amount : Instr → BitVec 6
  | .hash32 => 0
  | .hash128X64 => 0
  | .hash128X86 => 0
  | .rotl32 amt => amt
  | .rotl64 amt => amt
  | .scramble32 => 0
  | .fmix32 => 0
  | .fmix64 => 0
  | .mix32 => 0
  | .tail32 => 0
  | .fin32 => 0
  | .mix64 => 0
  | .tail64 => 0
  | .fin64 => 0
  | .mix86 => 0
  | .tail86 => 0
  | .fin86 => 0

/-- The decoder, total on all words (R94): the row `op` selects, or ILLEGAL_OP, then RESERVED_FIELD. A rotate amount
out of range is left in the command, which is then not well-formed: ROTL32 and ROTL64 raise BAD_ROTATE themselves,
before any register is read (R125, R126). So a word is rejected with exactly the code of `decodeCheck`
(log entry 11). -/
def decode (w : U32) : Except ErrCode Instr :=
  match rowOf (opField w) (amtField w) with
  | none => .error .illegalOp
  | some i =>
    if reservedBits w ≠ 0 then .error .reservedField
    else if amtField w ≠ i.amount then .error .reservedField
    else .ok i

/-- The word of a command (R90, R91, R100). -/
def encode (i : Instr) : U32 := enc i.opcode i.amount

/-- The decoder's answer on a word given as a number whose bit 0 is bit 0 of the command word; a command is one
32-bit word (R99), so bits above `nbits` are zero and nothing follows it. -/
def decodeTableWord (nbits w : Nat) : Option Instr :=
  match decode (BitVec.ofNat 32 (w % 2 ^ nbits)) with
  | .ok i => some i
  | .error _ => none

end Sys2Proof
end

