-- ==== Sys2Proof/Config.lean ====
section
/-! DEFINITION. What the platform fixes and the spec leaves open: the OPEN parameters of 00_scope.md R8 and
20_memory.md R71 (93_implementation_defined.md U6, U7). -/

namespace Sys2Proof

/-- The OPEN parameters. A state carries them (`State.cfg`) and no step writes them, so a statement about every state
is a statement about every value of them. -/
structure Config where
  /-- `BUF_BYTES`, the size of the key buffer; R8 bounds it by `2^32 - 1`, which the width says. -/
  bufBytes : U32
  /-- `BLOCK_BASE`, where the block sits in a platform's address map; no rule reads it (R71). -/
  blockBase : Nat
deriving DecidableEq, Repr, Inhabited

/-- The parameters of the platform at hand. A constant with no body: no proof can see its value
(log entry 3). -/
opaque Config.platform : Config

end Sys2Proof
end

