-- ==== Sys2Proof/Machine/State.lean ====
section
/-! DEFINITION. The state: everything the spec gives the block (10_state.md sections 1 and 2, 20_memory.md R60,
60_exceptions.md R247), the platform's parameters, and the environment the block is driven by (the host's actions,
the schedule, the host's observation). -/

namespace Sys2Proof.Machine

/-- The reasons of a model fault (60_exceptions.md R246). Each marks an access the spec leaves without a defined
result; stopping there is safe. -/
inductive Fault where
  /-- A host read of an unwritten register or key byte, or a command that reads one (R29, R35, R65, R246). Raised by
  `State.hostRead`, `State.readByte`, `State.accept`. Safe. -/
  | unwrittenRead
  /-- A host write to CMD, KEY_LEN, SEED, OPH0..3, OPK0..3 or a key byte while BUSY (R274). Raised by
  `State.hostWrite`, `State.hostWriteByte`, and by a meaning asked to start while another command runs. Safe. -/
  | writeWhileBusy
  /-- A host read of RES_LO or RES_HI while BUSY (R28). Raised by `State.hostRead`. Safe. -/
  | resultReadWhileBusy
  /-- A key-buffer offset at or above BUF_BYTES (R64, R65). Raised by `State.readByte`, `State.hostWriteByte`. Safe. -/
  | bufferRange
  /-- A register number 14 or above (R40). Raised by `State.hostRead`, `State.hostWrite`. Safe. -/
  | unmappedRegister
deriving DecidableEq, Repr

/-- Where the machine gives no step: no run from reset gets there (log entry 10). -/
inductive Refusal where
  /-- An instruction with no meaning yet. Raised only by an arm of `exec`; no arm raises it. Safe. -/
  | notModelled (mnemonic : String)
  /-- The engine is in a phase its command does not have (10_state.md R36 gives EXEC to the primitive and stage
  commands and the other four to the full hashes). Raised by `State.execStep`, `State.hashStep`; no state that a run
  reaches raises it. Safe. -/
  | phaseMismatch
  /-- The engine holds a rotate amount that acceptance rejects, for which no rotate is defined (40_primitives.md
  R120, R121). Raised by `execRotl32`, `execRotl64`; no state that a run reaches raises it. Safe. -/
  | rotateUndefined
deriving DecidableEq, Repr

/-- The STATE field of STATUS (R23, R24). -/
inductive RunState where
  /-- 0: no command accepted or rejected since reset. -/
  | idle
  /-- 1: an accepted command is executing. -/
  | busy
  /-- 2: the last command completed. -/
  | done
  /-- 3: the last command was rejected. -/
  | error
deriving DecidableEq, Repr

/-- STATUS by its two fields (R23). Its other bits always read 0 and the host cannot write it, so they are no state;
`Status.word` is the 32-bit value a read returns. -/
structure Status where
  state : RunState
  err : ErrCode
deriving DecidableEq, Repr

/-- A register with a written mark (R29). The value under a clear mark is never read (log entry 1). -/
structure Marked (w : Nat) where
  value : BitVec w
  written : Bool
deriving DecidableEq, Repr

/-- The key buffer (20_memory.md R60): the written bytes by offset, offsets strictly rising. An offset that is not
listed is an unwritten byte. -/
abbrev Memory := List Host.Cell

/-- `eng.phase` (R31). -/
inductive Phase where
  | idle
  | exec
  | init
  | block
  | tail
  | final
deriving DecidableEq, Repr

/-- The engine (R31). `cmd` holds `eng.op` and `eng.amt` together, as the accepted command; `lanes` is `L[0..3]`. -/
structure Engine where
  phase : Phase
  cmd : Instr
  lanes : Quad U64
  blk : Nat
deriving DecidableEq, Repr

/-- One host action (30_encoding.md R101; the byte read is 20_memory.md R65). A register is named by its number, so
that unmapped numbers can be written down (R40). `CMD c` is `wr 0 (enc c)`. -/
inductive HostAction where
  /-- `WR reg, value`. -/
  | wr (reg : Nat) (value : U64)
  /-- `RD reg`. -/
  | rd (reg : Nat)
  /-- `WRB off, byte` (R64). -/
  | wrb (off : Nat) (byte : Byte)
  /-- A host byte read (R65). -/
  | rdb (off : Nat)
  /-- `MOV dst, src[hi:lo]`: two host steps. -/
  | mov (dst src hi lo : Nat)
  /-- `WAIT`: read STATUS until it reads STATE != BUSY (R102). -/
  | wait
deriving DecidableEq, Repr

/-- Who takes a step (70_reset_and_hazards.md R280); the platform's step is the reset event (R270). -/
inductive Agent where
  | host
  | engine
  | platform
deriving DecidableEq, Repr

/-- Where a value the host read came from: a register or a key byte. -/
inductive Source where
  | reg (number : Nat)
  | byte (off : Nat)
deriving DecidableEq, Repr

/-- One value the host has read (R21, R101), zero-extended to 64 bits. -/
structure HostRead where
  source : Source
  value : U64
deriving DecidableEq, Repr

/-- The environment: what the host still has to do, who moves next, and what the host has seen, newest first. It is
the model's own (log entries 4 and 5). -/
structure Env where
  prog : List HostAction
  schedule : List Agent
  reads : List HostRead
deriving DecidableEq, Repr

structure State where
  /-- BUF_BYTES and BLOCK_BASE (00_scope.md R8, 20_memory.md R71). -/
  cfg : Config
  /-- CMD (R22). -/
  cmd : U32
  /-- STATUS (R23). -/
  status : Status
  /-- KEY_LEN (R25). -/
  keyLen : Marked 32
  /-- SEED (R26). -/
  seed : Marked 64
  /-- OPH0..OPH3 (R27). -/
  oph : Quad (Marked 64)
  /-- OPK0..OPK3 (R27). -/
  opk : Quad (Marked 64)
  /-- RES (R28). -/
  res : Marked 128
  /-- The key buffer (20_memory.md R60). -/
  buf : Memory
  /-- The engine (R31). -/
  eng : Engine
  /-- The fault record (60_exceptions.md R247). -/
  faulted : Option Fault
  /-- The environment. -/
  env : Env
deriving DecidableEq, Repr

/-- What a meaning, an access or a step answers. -/
abbrev Answer := Host.Outcome State Fault Refusal

/-- The block right after reset (10_state.md R39, 70_reset_and_hazards.md R270). Where R39 gives no value (under a
clear written mark; the lanes, `eng.op`, `eng.amt`, `eng.blk`) log entries 1 and 2 name one; the parameters are the
platform's (log entry 3); the environment has nothing to do and has seen nothing (log entries 4 and 5). -/
def State.reset : State where
  cfg := Config.platform
  cmd := 0
  status := ⟨.idle, .noError⟩
  keyLen := ⟨0, false⟩
  seed := ⟨0, false⟩
  oph := Quad.all ⟨0, false⟩
  opk := Quad.all ⟨0, false⟩
  res := ⟨0, false⟩
  buf := []
  eng := ⟨.idle, .hash32, Quad.all 0, 0⟩
  faulted := none
  env := ⟨[], [], []⟩

end Sys2Proof.Machine
end

