-- ==== Sys2Proof/Machine/Flags.lean ====
section
/-! DEFINITION. STATUS, the only status the block reports (10_state.md R23, R24, R34: there are no flags or condition
codes). -/

namespace Sys2Proof.Machine

/-- The STATE field's value (R23). -/
def RunState.code : RunState → BitVec 2
  | .idle => 0
  | .busy => 1
  | .done => 2
  | .error => 3

/-- The ERR field's value (60_exceptions.md R241). -/
def errValue : ErrCode → BitVec 4
  | .noError => 0
  | .illegalOp => 1
  | .reservedField => 2
  | .badRotate => 3
  | .lenRange => 4

/-- STATUS as the host reads it: STATE in [1:0], ERR in [7:4], every other bit 0 (R23). -/
def Status.word (st : Status) : U32 := (errValue st.err).setWidth 32 <<< 4 ||| (RunState.code st.state).setWidth 32

/-- `{STATE = BUSY, ERR = NONE}`, set at acceptance (R35). -/
def Status.busy : Status := ⟨.busy, .noError⟩

/-- `{STATE = DONE, ERR = NONE}`, set by a completion step (R36). -/
def Status.done : Status := ⟨.done, .noError⟩

/-- `{STATE = ERROR, ERR = code}`, set by a rejection (R242). -/
def Status.rejected (code : ErrCode) : Status := ⟨.error, code⟩

/-- STATE = BUSY. -/
def State.busy (s : State) : Bool := decide (s.status.state = .busy)

end Sys2Proof.Machine
end

