-- ==== Sys2Proof/Machine/Operands.lean ====
section
/-! DEFINITION. The interface registers by number, the operands each command reads, and the widths they are read at
(10_state.md R20, R29; 30_encoding.md R95, R96). -/

namespace Sys2Proof.Machine

/-- The fourteen interface registers (R20). -/
inductive Reg where
  | cmd
  | status
  | keyLen
  | seed
  | oph (j : Fin 4)
  | opk (j : Fin 4)
  | resLo
  | resHi
deriving DecidableEq, Repr

/-- The register a number names; 14 and above are unmapped (R20, R40). -/
def Reg.ofNumber : Nat → Option Reg
  | 0 => some .cmd
  | 1 => some .status
  | 2 => some .keyLen
  | 3 => some .seed
  | 4 => some (.oph 0)
  | 5 => some (.oph 1)
  | 6 => some (.oph 2)
  | 7 => some (.oph 3)
  | 8 => some (.opk 0)
  | 9 => some (.opk 1)
  | 10 => some (.opk 2)
  | 11 => some (.opk 3)
  | 12 => some .resLo
  | 13 => some .resHi
  | _ => none

/-- A register's number (R20). -/
def Reg.number : Reg → Nat
  | .cmd => 0
  | .status => 1
  | .keyLen => 2
  | .seed => 3
  | .oph j => 4 + j.val
  | .opk j => 8 + j.val
  | .resLo => 12
  | .resHi => 13

/-- The written mark of a register (R29). CMD and STATUS carry none: they have a value from reset on. -/
def State.written (s : State) : Reg → Bool
  | .cmd => true
  | .status => true
  | .keyLen => s.keyLen.written
  | .seed => s.seed.written
  | .oph j => (s.oph.get j).written
  | .opk j => (s.opk.get j).written
  | .resLo => s.res.written
  | .resHi => s.res.written

/-- `x[r]`, a 32-bit register zero-extended (R20, R28). -/
def State.value (s : State) : Reg → U64
  | .cmd => s.cmd.setWidth 64
  | .status => s.status.word.setWidth 64
  | .keyLen => s.keyLen.value.setWidth 64
  | .seed => s.seed.value
  | .oph j => (s.oph.get j).value
  | .opk j => (s.opk.get j).value
  | .resLo => s.res.value.extractLsb' 0 64
  | .resHi => s.res.value.extractLsb' 64 64

/-- `x[r] <- v` and the written mark (R29). A 32-bit register takes bits [31:0] (R41, log entry 6). CMD, STATUS and
RES are not written here: CMD starts the command lifecycle, the others are read-only (R22, R23, R28). -/
def State.setReg (s : State) (r : Reg) (v : U64) : State :=
  match r with
  | .cmd => s
  | .status => s
  | .keyLen => { s with keyLen := ⟨v.setWidth 32, true⟩ }
  | .seed => { s with seed := ⟨v, true⟩ }
  | .oph j => { s with oph := s.oph.set j ⟨v, true⟩ }
  | .opk j => { s with opk := s.opk.set j ⟨v, true⟩ }
  | .resLo => s
  | .resHi => s

end Sys2Proof.Machine

namespace Sys2Proof

open Machine

/-- The registers a command reads (R95). -/
def Instr.reads : Instr → List Reg
  | .hash32 => [.seed, .keyLen]
  | .hash128X64 => [.seed, .keyLen]
  | .hash128X86 => [.seed, .keyLen]
  | .rotl32 _ => [.oph 0]
  | .rotl64 _ => [.oph 0]
  | .scramble32 => [.opk 0]
  | .fmix32 => [.oph 0]
  | .fmix64 => [.oph 0]
  | .mix32 => [.oph 0, .opk 0]
  | .tail32 => [.oph 0, .opk 0, .keyLen]
  | .fin32 => [.oph 0, .keyLen]
  | .mix64 => [.oph 0, .oph 1, .opk 0, .opk 1]
  | .tail64 => [.oph 0, .oph 1, .opk 0, .opk 1, .keyLen]
  | .fin64 => [.oph 0, .oph 1, .keyLen]
  | .mix86 => [.oph 0, .oph 1, .oph 2, .oph 3, .opk 0, .opk 1, .opk 2, .opk 3]
  | .tail86 => [.oph 0, .oph 1, .oph 2, .oph 3, .opk 0, .opk 1, .opk 2, .opk 3, .keyLen]
  | .fin86 => [.oph 0, .oph 1, .oph 2, .oph 3, .keyLen]

/-- The full-hash commands, which also read key bytes (R95). -/
def Instr.fullHash : Instr → Bool
  | .hash32 => true
  | .hash128X64 => true
  | .hash128X86 => true
  | .rotl32 _ => false
  | .rotl64 _ => false
  | .scramble32 => false
  | .fmix32 => false
  | .fmix64 => false
  | .mix32 => false
  | .tail32 => false
  | .fin32 => false
  | .mix64 => false
  | .tail64 => false
  | .fin64 => false
  | .mix86 => false
  | .tail86 => false
  | .fin86 => false

end Sys2Proof

namespace Sys2Proof.Machine

/-- `x[OPHj][31:0]` (R96). -/
def State.h32 (s : State) (j : Fin 4) : U32 := (s.oph.get j).value.setWidth 32

/-- `x[OPHj]`. -/
def State.h64 (s : State) (j : Fin 4) : U64 := (s.oph.get j).value

/-- `x[OPKj][31:0]` (R96). -/
def State.k32 (s : State) (j : Fin 4) : U32 := (s.opk.get j).value.setWidth 32

/-- `x[OPKj]`. -/
def State.k64 (s : State) (j : Fin 4) : U64 := (s.opk.get j).value

/-- The four x86 lane operands (43_hash128_x86.md R219). -/
def State.h32s (s : State) : Quad U32 := s.oph.map fun r => r.value.setWidth 32

/-- The four x86 block-word operands (R219). -/
def State.k32s (s : State) : Quad U32 := s.opk.map fun r => r.value.setWidth 32

/-- `key_len`, the value of KEY_LEN (R25). -/
def State.keyLength (s : State) : Nat := s.keyLen.value.toNat

/-- `n_blocks = x[KEY_LEN] / bs` (R36). -/
def State.nBlocks (s : State) (bs : Nat) : Nat := s.keyLength / bs

/-- `tail_sz = x[KEY_LEN] mod bs` (R36). -/
def State.tailSize (s : State) (bs : Nat) : Nat := s.keyLength % bs

/-- `L[j][31:0]` (R32). -/
def State.lane32 (s : State) (j : Fin 4) : U32 := (s.eng.lanes.get j).setWidth 32

/-- `L[0..3][31:0]` (R32). -/
def State.lanes32 (s : State) : Quad U32 := s.eng.lanes.map fun c => c.setWidth 32

/-- A lane cell with bits [31:0] replaced: a 32-bit variant writes no other bit (R32). -/
def setLow32 (cell : U64) (v : U32) : U64 := cell.extractLsb' 32 32 ++ v

/-- All four cells with bits [31:0] replaced. -/
def setLow32s (cells : Quad U64) (v : Quad U32) : Quad U64 :=
  ⟨setLow32 cells.q0 v.q0, setLow32 cells.q1 v.q1, setLow32 cells.q2 v.q2, setLow32 cells.q3 v.q3⟩

/-- `k & (2^(8m) - 1)`: bytes 0 to m-1 of a word (41_hash32.md R152, R185, R214). -/
def keepBytes {w : Nat} (k : BitVec w) (m : Nat) : BitVec w := k &&& BitVec.ofNat w (2 ^ (8 * m) - 1)

end Sys2Proof.Machine
end

