-- ==== Sys2Proof/Machine/Ops.lean ====
section
/-! DEFINITION. The shared operations: the key buffer, the command lifecycle (10_state.md R35, R36), the error
response (60_exceptions.md R242), the fault record (R247), and reset (70_reset_and_hazards.md R270). -/

namespace Sys2Proof.Machine

/-! ## The key buffer -/

/-- What an offset that is not listed reads as: no value, since the byte is unwritten (R29, log entry 9). -/
def Memory.unlisted : Option Byte := none

/-- The byte at an offset, if it is written. -/
def Memory.read : Memory → Nat → Option Byte
  | [], _ => Memory.unlisted
  | (a, b) :: m, off => if off = a then some b else Memory.read m off

/-- `buf[off] <- v` and its written mark (R64). -/
def Memory.write : Memory → Nat → Byte → Memory
  | [], off, v => [(off, v)]
  | (a, b) :: m, off, v =>
    if off < a then (off, v) :: (a, b) :: m
    else if off = a then (a, v) :: m
    else (a, b) :: Memory.write m off v

/-- Every offset of a memory is above `lo`. -/
def Memory.above (lo : Nat) (m : Memory) : Bool := m.all fun c => decide (lo < c.1)

/-- The canonical form: offsets strictly rising. (An unlisted offset has no value, so no entry can equal it.) -/
def Memory.wf : Memory → Bool
  | [] => true
  | (a, _) :: m => Memory.above a m && Memory.wf m

/-- Every offset listed exists: it is below BUF_BYTES (R60). -/
def Memory.within (bound : Nat) (m : Memory) : Bool := m.all fun c => decide (c.1 < bound)

/-- `buf[off]`: BufferRange where there is no storage, then UnwrittenRead, the spec's own stops (R65, R246, R248). -/
def State.readByte (s : State) (off : Nat) : Except Fault Byte :=
  if s.cfg.bufBytes.toNat ≤ off then .error .bufferRange
  else
    match s.buf.read off with
    | none => .error .unwrittenRead
    | some b => .ok b

/-- `MemRead(off, n)`, little-endian, `n` up to 8, as a 64-bit value (20_memory.md R62). It faults where a byte does
not exist or is unwritten, which no accepted command meets (R63). -/
def State.memRead (s : State) (off : Nat) : Nat → Except Fault U64
  | 0 => .ok 0
  | n + 1 =>
    match s.memRead off n with
    | .error f => .error f
    | .ok v =>
      match s.readByte (off + n) with
      | .error f => .error f
      | .ok b => .ok (v ||| (b.setWidth 64 <<< (8 * n)))

/-- Two `MemRead`s, the first faulting first. -/
def State.memRead2 (s : State) (off₁ n₁ off₂ n₂ : Nat) : Except Fault (U64 × U64) :=
  match s.memRead off₁ n₁ with
  | .error f => .error f
  | .ok v₁ =>
    match s.memRead off₂ n₂ with
    | .error f => .error f
    | .ok v₂ => .ok (v₁, v₂)

/-- Bytes 0 to n-1 are all written. -/
def Memory.hasBytes (m : Memory) : Nat → Bool
  | 0 => true
  | n + 1 => m.hasBytes n && (m.read n).isSome

/-- Key bytes 0 to n-1 are all written (R35). -/
def State.keyWritten (s : State) (n : Nat) : Bool := s.buf.hasBytes n

/-- The state with a key byte written (R64). -/
def State.setByte (s : State) (off : Nat) (v : Byte) : State := { s with buf := s.buf.write off v }

/-! ## Errors, faults, reset

The block has no traps and no saved state (60_exceptions.md R250). What stands for taking an exception is the error
response and the fault record; what leaves them is the next CMD write (R245) and reset (R247). -/

/-- `raise Error(code)`: STATUS alone changes (R242). -/
def State.raiseError (s : State) (code : ErrCode) : State := { s with status := Status.rejected code }

/-- `raise Fault(reason)`: the machine enters `faulted(reason)`; the faulting access has no other effect (R247, which
lets a model discard it; log entry 7). -/
def State.enterFaulted (s : State) (reason : Fault) : State := { s with faulted := some reason }

/-- The reset event (R270): every part of the block at its reset value. The platform's parameters and the environment
are not the block's. -/
def State.resetBlock (s : State) : State := { State.reset with cfg := s.cfg, env := s.env }

/-! ## The command lifecycle -/

/-- The end of acceptance: the engine holds the command and starts in `phase`, STATUS is BUSY (R35). -/
def State.start (s : State) (i : Instr) (phase : Phase) : State :=
  { s with status := Status.busy, eng := { s.eng with phase := phase, cmd := i } }

/-- The completion step: RES, its mark, STATUS and the phase in one atomic step (R36, R73). -/
def State.complete (s : State) (v : U128) : State :=
  { s with res := ⟨v, true⟩, status := Status.done, eng := { s.eng with phase := .idle } }

/-- Acceptance of a command whose word passed `decode_check` (R35, R243 items 5 to 7): operand registers, then
LEN_RANGE, then key bytes. That an unwritten register or key byte stops it is R35's own `raise Fault(UnwrittenRead)`. -/
def State.accept (s : State) (i : Instr) : Answer :=
  if i.reads.all s.written = false then .fault .unwrittenRead
  else if i.fullHash = false then .next (s.start i .exec)
  else if s.cfg.bufBytes.toNat < s.keyLength then .next (s.raiseError .lenRange)
  else if s.keyWritten s.keyLength = false then .fault .unwrittenRead
  else .next (s.start i .init)

/-- An engine step of command `i`: it is the engine's only if `i` is the command that runs; another command cannot
start while one runs (R274). -/
def State.running (s : State) (i : Instr) (a : Answer) : Answer :=
  if s.eng.cmd = i then a else .fault .writeWhileBusy

/-- A primitive or stage command: acceptance when the engine is idle, its EXEC step when it runs (R35, R36). -/
def State.execStep (s : State) (i : Instr) (result : U128) : Answer :=
  match s.eng.phase with
  | .idle => s.accept i
  | .exec => s.running i (.next (s.complete result))
  | .init => s.running i (.refused .phaseMismatch)
  | .block => s.running i (.refused .phaseMismatch)
  | .tail => s.running i (.refused .phaseMismatch)
  | .final => s.running i (.refused .phaseMismatch)

/-- A rotate by an amount no rotate is defined for: BAD_ROTATE at acceptance (30_encoding.md R92, R94). -/
def State.rejectRotate (s : State) (i : Instr) : Answer :=
  match s.eng.phase with
  | .idle => .next (s.raiseError .badRotate)
  | .exec => s.running i (.refused .rotateUndefined)
  | .init => s.running i (.refused .rotateUndefined)
  | .block => s.running i (.refused .rotateUndefined)
  | .tail => s.running i (.refused .rotateUndefined)
  | .final => s.running i (.refused .rotateUndefined)

/-- INIT (R36). -/
def State.stepInit (s : State) (bs : Nat) (lanes : Quad U64) : State :=
  { s with eng := { s.eng with
      lanes := lanes
      blk := 0
      phase := if 0 < s.nBlocks bs then .block else .tail } }

/-- BLOCK (R36). -/
def State.stepBlock (s : State) (bs : Nat) (lanes : Quad U64) : State :=
  { s with eng := { s.eng with
      lanes := lanes
      blk := s.eng.blk + 1
      phase := if s.eng.blk + 1 = s.nBlocks bs then .tail else .block } }

/-- TAIL (R36). -/
def State.stepTail (s : State) (lanes : Quad U64) : State :=
  { s with eng := { s.eng with lanes := lanes, phase := .final } }

/-- A full-hash command with block size `bs`: acceptance when the engine is idle, and its INIT, BLOCK, TAIL and FINAL
steps (R35, R36), given the variant's four functions on this state. -/
def State.hashStep (s : State) (i : Instr) (bs : Nat) (init : Quad U64) (block tail : Except Fault (Quad U64))
    (final : U128) : Answer :=
  match s.eng.phase with
  | .idle => s.accept i
  | .exec => s.running i (.refused .phaseMismatch)
  | .init => s.running i (.next (s.stepInit bs init))
  | .block =>
    s.running i (match block with
      | .ok lanes => .next (s.stepBlock bs lanes)
      | .error f => .fault f)
  | .tail =>
    s.running i (match tail with
      | .ok lanes => .next (s.stepTail lanes)
      | .error f => .fault f)
  | .final => s.running i (.next (s.complete final))

end Sys2Proof.Machine
end

