-- ==== Sys2Proof/Machine/Primitives.lean ====
section
/-! DEFINITION. The shared primitives and the five commands that expose them (40_primitives.md). -/

namespace Sys2Proof.Machine

/-- `rotl32(x, r)`, defined for 1 to 31 (R120). -/
def rotl32 (x : U32) (r : Nat) : U32 := (x <<< r) ||| (x >>> (32 - r))

/-- `rotl64(x, r)`, defined for 1 to 63 (R121). -/
def rotl64 (x : U64) (r : Nat) : U64 := (x <<< r) ||| (x >>> (64 - r))

/-- `scramble32(k)` (R122). -/
def scramble32 (k : U32) : U32 :=
  let k := k * 0xcc9e2d51#32
  let k := rotl32 k 15
  k * 0x1b873593#32

/-- `fmix32(h)` (R123). -/
def fmix32 (h : U32) : U32 :=
  let h := h ^^^ (h >>> 16)
  let h := h * 0x85ebca6b#32
  let h := h ^^^ (h >>> 13)
  let h := h * 0xc2b2ae35#32
  h ^^^ (h >>> 16)

/-- `fmix64(h)` (R124). -/
def fmix64 (h : U64) : U64 :=
  let h := h ^^^ (h >>> 33)
  let h := h * 0xff51afd7ed558ccd#64
  let h := h ^^^ (h >>> 33)
  let h := h * 0xc4ceb9fe1a85ec53#64
  h ^^^ (h >>> 33)

/-- ROTL32 (R125). -/
def execRotl32 (amt : BitVec 6) (s : State) : Answer :=
  if (Instr.rotl32 amt).wf then s.execStep (.rotl32 amt) ((rotl32 (s.h32 0) amt.toNat).setWidth 128)
  else s.rejectRotate (.rotl32 amt)

/-- ROTL64 (R126). -/
def execRotl64 (amt : BitVec 6) (s : State) : Answer :=
  if (Instr.rotl64 amt).wf then s.execStep (.rotl64 amt) ((rotl64 (s.h64 0) amt.toNat).setWidth 128)
  else s.rejectRotate (.rotl64 amt)

/-- SCRAMBLE32 (R127). -/
def execScramble32 (s : State) : Answer := s.execStep .scramble32 ((scramble32 (s.k32 0)).setWidth 128)

/-- FMIX32 (R128). -/
def execFmix32 (s : State) : Answer := s.execStep .fmix32 ((fmix32 (s.h32 0)).setWidth 128)

/-- FMIX64 (R129). -/
def execFmix64 (s : State) : Answer := s.execStep .fmix64 ((fmix64 (s.h64 0)).setWidth 128)

end Sys2Proof.Machine
end

