-- ==== Sys2Proof/Machine/Hash32.lean ====
section
/-! DEFINITION. The MurmurHash3-32 pipeline (41_hash32.md): its functions and its four commands. -/

namespace Sys2Proof.Machine

/-- `init32(seed) = seed mod 2^32` (R150). -/
def init32 (seed : U64) : U32 := seed.setWidth 32

/-- `mix32(h, k)` (R151). -/
def mix32 (h k : U32) : U32 :=
  let h := h ^^^ scramble32 k
  let h := rotl32 h 13
  h * 5 + 0xe6546b64#32

/-- `tail32(h, k, t)` (R152): no rotate and no multiply-add (R277). -/
def tail32 (h k : U32) (t : Nat) : U32 :=
  let k := keepBytes k t
  if 0 < t then h ^^^ scramble32 k else h

/-- `fin32(h, n)` (R153). -/
def fin32 (h n : U32) : U32 := fmix32 (h ^^^ n)

/-- `LE(...)`: the little-endian value of a list of at most 8 bytes (20_memory.md R62). -/
def leWord : List Byte → U64
  | [] => 0
  | b :: bs => b.setWidth 64 ||| (leWord bs <<< 8)

/-- Bytes `off` to `off + n - 1` of a key. -/
def keySlice (key : List Byte) (off n : Nat) : List Byte := (key.drop off).take n

/-- The state word after `b` blocks (R154's loop, in increasing b). -/
def hash32Blocks (key : List Byte) (h : U32) : Nat → U32
  | 0 => h
  | b + 1 => mix32 (hash32Blocks key h b) ((leWord (keySlice key (4 * b) 4)).setWidth 32)

/-- `hash32u(key, seed)` (R154). Keys of 2^32 bytes and more cannot be expressed (D7). -/
def hash32u (key : List Byte) (seed : U64) : U32 :=
  let n := key.length
  let h := hash32Blocks key (init32 seed) (n / 4)
  let t := n % 4
  let h := tail32 h ((leWord (keySlice key (4 * (n / 4)) t)).setWidth 32) t
  fin32 h (BitVec.ofNat 32 n)

/-- `toSigned32(h)`, the host's reading of a hash32 digest (R156). -/
def toSigned32 (h : U32) : Int := if h.getLsbD 31 then (h.toNat : Int) - 2 ^ 32 else h.toNat

/-- HASH32's BLOCK function (R160). -/
def hash32Block (s : State) : Except Fault (Quad U64) :=
  match s.memRead (4 * s.eng.blk) 4 with
  | .error f => .error f
  | .ok k => .ok (s.eng.lanes.set 0 (setLow32 s.eng.lanes.q0 (mix32 (s.lane32 0) (k.setWidth 32))))

/-- HASH32's TAIL function (R160, R63). -/
def hash32Tail (s : State) : Except Fault (Quad U64) :=
  match s.memRead (4 * s.nBlocks 4) (s.tailSize 4) with
  | .error f => .error f
  | .ok k =>
    .ok (s.eng.lanes.set 0 (setLow32 s.eng.lanes.q0 (tail32 (s.lane32 0) (k.setWidth 32) (s.tailSize 4))))

/-- HASH32 (R160). -/
def execHash32 (s : State) : Answer :=
  s.hashStep .hash32 4
    (s.eng.lanes.set 0 (setLow32 s.eng.lanes.q0 (init32 s.seed.value)))
    (hash32Block s)
    (hash32Tail s)
    ((fin32 (s.lane32 0) s.keyLen.value).setWidth 128)

/-- MIX32 (R157). -/
def execMix32 (s : State) : Answer := s.execStep .mix32 ((mix32 (s.h32 0) (s.k32 0)).setWidth 128)

/-- TAIL32 (R158). -/
def execTail32 (s : State) : Answer :=
  s.execStep .tail32 ((tail32 (s.h32 0) (s.k32 0) (s.tailSize 4)).setWidth 128)

/-- FIN32 (R159). -/
def execFin32 (s : State) : Answer := s.execStep .fin32 ((fin32 (s.h32 0) s.keyLen.value).setWidth 128)

end Sys2Proof.Machine
end

