-- ==== Sys2Proof/Machine/Hash128X64.lean ====
section
/-! DEFINITION. The MurmurHash3-128-x64 pipeline (42_hash128_x64.md): its functions and its four commands. -/

namespace Sys2Proof.Machine

/-- `c1` (R180). -/
def x64C1 : U64 := 0x87c37b91114253d5

/-- `c2` (R180). -/
def x64C2 : U64 := 0x4cf5ad432745937f

/-- `x64_k1(k)` (R182). -/
def x64K1 (k : U64) : U64 :=
  let k := k * x64C1
  let k := rotl64 k 31
  k * x64C2

/-- `x64_k2(k)`: c2, then rotate by 33, then c1 (R183; 90_conflicts.md C2). -/
def x64K2 (k : U64) : U64 :=
  let k := k * x64C2
  let k := rotl64 k 33
  k * x64C1

/-- `mix64(h1, h2, k1, k2)`: h1 reads the old h2, h2 the new h1 (R184, R276). -/
def mix64 (h1 h2 k1 k2 : U64) : U64 × U64 :=
  let h1 := h1 ^^^ x64K1 k1
  let h1 := rotl64 h1 27
  let h1 := h1 + h2
  let h1 := h1 * 5 + 0x52dce729#64
  let h2 := h2 ^^^ x64K2 k2
  let h2 := rotl64 h2 31
  let h2 := h2 + h1
  let h2 := h2 * 5 + 0x38495ab5#64
  (h1, h2)

/-- `tail64(h1, h2, k1, k2, t)` (R185). -/
def tail64 (h1 h2 k1 k2 : U64) (t : Nat) : U64 × U64 :=
  let k1 := keepBytes k1 (min t 8)
  let k2 := keepBytes k2 (t - 8)
  let h2 := if 8 < t then h2 ^^^ x64K2 k2 else h2
  let h1 := if 0 < t then h1 ^^^ x64K1 k1 else h1
  (h1, h2)

/-- `fin64(h1, h2, n)` (R186). -/
def fin64 (h1 h2 : U64) (n : U32) : U128 :=
  let h1 := h1 ^^^ n.setWidth 64
  let h2 := h2 ^^^ n.setWidth 64
  let h1 := h1 + h2
  let h2 := h1 + h2
  let h1 := fmix64 h1
  let h2 := fmix64 h2
  let h1 := h1 + h2
  let h2 := h1 + h2
  h2 ++ h1

/-- `cat(a2, a1)` of a two-lane result (30_encoding.md R97). -/
def pack2 (a : U64 × U64) : U128 := a.2 ++ a.1

/-- The lanes after `b` blocks (R187's loop). -/
def hash128X64Blocks (key : List Byte) (h : U64 × U64) : Nat → U64 × U64
  | 0 => h
  | b + 1 =>
    let g := hash128X64Blocks key h b
    mix64 g.1 g.2 (leWord (keySlice key (16 * b) 8)) (leWord (keySlice key (16 * b + 8) 8))

/-- `hash128_x64(key, seed)` (R187, R181). Keys of 2^32 bytes and more cannot be expressed (D7). -/
def hash128X64 (key : List Byte) (seed : U64) : U128 :=
  let n := key.length
  let h := hash128X64Blocks key (seed, seed) (n / 16)
  let t := n % 16
  let base := 16 * (n / 16)
  let h := tail64 h.1 h.2 (leWord (keySlice key base (min t 8))) (leWord (keySlice key (base + 8) (t - 8))) t
  fin64 h.1 h.2 (BitVec.ofNat 32 n)

/-- The two lanes written: `L[0]` and `L[1]` (R32). -/
def setLanes2 (lanes : Quad U64) (h : U64 × U64) : Quad U64 := (lanes.set 0 h.1).set 1 h.2

/-- HASH128_X64's BLOCK function (R192). -/
def hash128X64Block (s : State) : Except Fault (Quad U64) :=
  match s.memRead2 (16 * s.eng.blk) 8 (16 * s.eng.blk + 8) 8 with
  | .error f => .error f
  | .ok k => .ok (setLanes2 s.eng.lanes (mix64 s.eng.lanes.q0 s.eng.lanes.q1 k.1 k.2))

/-- HASH128_X64's TAIL function (R192, R63). -/
def hash128X64Tail (s : State) : Except Fault (Quad U64) :=
  let t := s.tailSize 16
  let base := 16 * s.nBlocks 16
  match s.memRead2 base (min t 8) (base + 8) (t - 8) with
  | .error f => .error f
  | .ok k => .ok (setLanes2 s.eng.lanes (tail64 s.eng.lanes.q0 s.eng.lanes.q1 k.1 k.2 t))

/-- HASH128_X64 (R192). -/
def execHash128X64 (s : State) : Answer :=
  s.hashStep .hash128X64 16
    (setLanes2 s.eng.lanes (s.seed.value, s.seed.value))
    (hash128X64Block s)
    (hash128X64Tail s)
    (fin64 s.eng.lanes.q0 s.eng.lanes.q1 s.keyLen.value)

/-- MIX64 (R189). -/
def execMix64 (s : State) : Answer :=
  s.execStep .mix64 (pack2 (mix64 (s.h64 0) (s.h64 1) (s.k64 0) (s.k64 1)))

/-- TAIL64 (R190). -/
def execTail64 (s : State) : Answer :=
  s.execStep .tail64 (pack2 (tail64 (s.h64 0) (s.h64 1) (s.k64 0) (s.k64 1) (s.tailSize 16)))

/-- FIN64 (R191). -/
def execFin64 (s : State) : Answer := s.execStep .fin64 (fin64 (s.h64 0) (s.h64 1) s.keyLen.value)

end Sys2Proof.Machine
end

