-- ==== Sys2Proof/Machine/Hash128X86.lean ====
section
/-! DEFINITION. The MurmurHash3-128-x86 pipeline (43_hash128_x86.md): its functions and its four commands. A lane or
word number j = 1..4 of the spec is element j - 1 here. -/

namespace Sys2Proof.Machine

/-- `c1..c4` (R210). -/
def x86C : Fin 4 → U32
  | 0 => 0x239b961b
  | 1 => 0xab0e9789
  | 2 => 0x38b34ae5
  | 3 => 0xa1e38b93

/-- `KR[j]` (R212). -/
def x86KR : Fin 4 → Nat
  | 0 => 15
  | 1 => 16
  | 2 => 17
  | 3 => 18

/-- `x86_k(j, k)`: CA[j] is `c_j` and CB[j] the next constant, c1 after c4 (R212). -/
def x86K (j : Fin 4) (k : U32) : U32 :=
  let k := k * x86C j
  let k := rotl32 k (x86KR j)
  k * x86C (j + 1)

/-- `mix86(h1..h4, k1..k4)`: lanes in the order 1 to 4; `h4 + h1` reads the h1 already updated
(R213; 90_conflicts.md C1). -/
def mix86 (h k : Quad U32) : Quad U32 :=
  let h1 := h.q0 ^^^ x86K 0 k.q0
  let h1 := rotl32 h1 19
  let h1 := h1 + h.q1
  let h1 := h1 * 5 + 0x561ccd1b#32
  let h2 := h.q1 ^^^ x86K 1 k.q1
  let h2 := rotl32 h2 17
  let h2 := h2 + h.q2
  let h2 := h2 * 5 + 0x0bcaa747#32
  let h3 := h.q2 ^^^ x86K 2 k.q2
  let h3 := rotl32 h3 15
  let h3 := h3 + h.q3
  let h3 := h3 * 5 + 0x96cd1c35#32
  let h4 := h.q3 ^^^ x86K 3 k.q3
  let h4 := rotl32 h4 13
  let h4 := h4 + h1
  let h4 := h4 * 5 + 0x32ac3b17#32
  ⟨h1, h2, h3, h4⟩

/-- Lane `j`'s part of the tail (R214): bytes `4j` on, at most 4; mixed only if the tail reaches past its base. -/
def tailLane86 (j : Fin 4) (h k : U32) (t : Nat) : U32 :=
  let k := keepBytes k (min (t - 4 * j.val) 4)
  if 4 * j.val < t then h ^^^ x86K j k else h

/-- `tail86(h1..h4, k1..k4, t)` (R214): each lane takes only its own mix. -/
def tail86 (h k : Quad U32) (t : Nat) : Quad U32 :=
  let h4 := tailLane86 3 h.q3 k.q3 t
  let h3 := tailLane86 2 h.q2 k.q2 t
  let h2 := tailLane86 1 h.q1 k.q1 t
  let h1 := tailLane86 0 h.q0 k.q0 t
  ⟨h1, h2, h3, h4⟩

/-- `cross86(h1..h4)`: h1 takes all three additions before the others read it (R215). -/
def cross86 (h : Quad U32) : Quad U32 :=
  let h1 := h.q0 + h.q1
  let h1 := h1 + h.q2
  let h1 := h1 + h.q3
  let h2 := h.q1 + h1
  let h3 := h.q2 + h1
  let h4 := h.q3 + h1
  ⟨h1, h2, h3, h4⟩

/-- `cat(a4, a3, a2, a1)` of a four-lane result (30_encoding.md R97). -/
def pack4 (a : Quad U32) : U128 := a.q3 ++ a.q2 ++ a.q1 ++ a.q0

/-- `fin86(h1..h4, n)` (R216). -/
def fin86 (h : Quad U32) (n : U32) : U128 :=
  let h := h.map fun x => x ^^^ n
  let h := cross86 h
  let h := h.map fmix32
  let h := cross86 h
  pack4 h

/-- The four words read at `off`, `m j` bytes for word j. -/
def keyWords86 (key : List Byte) (off : Nat) (m : Fin 4 → Nat) : Quad U32 :=
  ⟨(leWord (keySlice key off (m 0))).setWidth 32, (leWord (keySlice key (off + 4) (m 1))).setWidth 32,
    (leWord (keySlice key (off + 8) (m 2))).setWidth 32, (leWord (keySlice key (off + 12) (m 3))).setWidth 32⟩

/-- `clamp(t - 4(j - 1), 0, 4)`: the bytes of word j in a tail of `t` bytes (R63). -/
def tailBytes86 (t : Nat) (j : Fin 4) : Nat := min (t - 4 * j.val) 4

/-- The lanes after `b` blocks (R217's loop). -/
def hash128X86Blocks (key : List Byte) (h : Quad U32) : Nat → Quad U32
  | 0 => h
  | b + 1 => mix86 (hash128X86Blocks key h b) (keyWords86 key (16 * b) fun _ => 4)

/-- `hash128_x86(key, seed)` (R217, R211). Keys of 2^32 bytes and more cannot be expressed (D7). -/
def hash128X86 (key : List Byte) (seed : U64) : U128 :=
  let n := key.length
  let h := hash128X86Blocks key (Quad.all (seed.setWidth 32)) (n / 16)
  let t := n % 16
  let h := tail86 h (keyWords86 key (16 * (n / 16)) (tailBytes86 t)) t
  fin86 h (BitVec.ofNat 32 n)

/-- The engine's four reads at `off`, `m j` bytes for word j (R63). -/
def State.memRead86 (s : State) (off : Nat) (m : Fin 4 → Nat) : Except Fault (Quad U32) :=
  match s.memRead2 off (m 0) (off + 4) (m 1) with
  | .error f => .error f
  | .ok a =>
    match s.memRead2 (off + 8) (m 2) (off + 12) (m 3) with
    | .error f => .error f
    | .ok b => .ok ⟨a.1.setWidth 32, a.2.setWidth 32, b.1.setWidth 32, b.2.setWidth 32⟩

/-- HASH128_X86's BLOCK function (R222). -/
def hash128X86Block (s : State) : Except Fault (Quad U64) :=
  match s.memRead86 (16 * s.eng.blk) (fun _ => 4) with
  | .error f => .error f
  | .ok k => .ok (setLow32s s.eng.lanes (mix86 s.lanes32 k))

/-- HASH128_X86's TAIL function (R222, R63). -/
def hash128X86Tail (s : State) : Except Fault (Quad U64) :=
  match s.memRead86 (16 * s.nBlocks 16) (tailBytes86 (s.tailSize 16)) with
  | .error f => .error f
  | .ok k => .ok (setLow32s s.eng.lanes (tail86 s.lanes32 k (s.tailSize 16)))

/-- HASH128_X86 (R222). -/
def execHash128X86 (s : State) : Answer :=
  s.hashStep .hash128X86 16
    (setLow32s s.eng.lanes (Quad.all (s.seed.value.setWidth 32)))
    (hash128X86Block s)
    (hash128X86Tail s)
    (fin86 s.lanes32 s.keyLen.value)

/-- MIX86 (R219). -/
def execMix86 (s : State) : Answer := s.execStep .mix86 (pack4 (mix86 s.h32s s.k32s))

/-- TAIL86 (R220). -/
def execTail86 (s : State) : Answer := s.execStep .tail86 (pack4 (tail86 s.h32s s.k32s (s.tailSize 16)))

/-- FIN86 (R221). -/
def execFin86 (s : State) : Answer := s.execStep .fin86 (fin86 s.h32s s.keyLen.value)

end Sys2Proof.Machine
end

