-- ==== Sys2Proof/Machine/Dispatch.lean ====
section
/-! DEFINITION. One arm per command: what the block does with command `i` in state `s`, its acceptance when the engine
is idle and its next engine step while it runs (10_state.md R35, R36). -/

namespace Sys2Proof.Machine

def exec (i : Instr) (s : State) : Host.Outcome State Fault Refusal :=
  match i with
  | .hash32 => Sys2Proof.Machine.execHash32 s
  | .hash128X64 => Sys2Proof.Machine.execHash128X64 s
  | .hash128X86 => Sys2Proof.Machine.execHash128X86 s
  | .rotl32 amt => Sys2Proof.Machine.execRotl32 amt s
  | .rotl64 amt => Sys2Proof.Machine.execRotl64 amt s
  | .scramble32 => Sys2Proof.Machine.execScramble32 s
  | .fmix32 => Sys2Proof.Machine.execFmix32 s
  | .fmix64 => Sys2Proof.Machine.execFmix64 s
  | .mix32 => Sys2Proof.Machine.execMix32 s
  | .tail32 => Sys2Proof.Machine.execTail32 s
  | .fin32 => Sys2Proof.Machine.execFin32 s
  | .mix64 => Sys2Proof.Machine.execMix64 s
  | .tail64 => Sys2Proof.Machine.execTail64 s
  | .fin64 => Sys2Proof.Machine.execFin64 s
  | .mix86 => Sys2Proof.Machine.execMix86 s
  | .tail86 => Sys2Proof.Machine.execTail86 s
  | .fin86 => Sys2Proof.Machine.execFin86 s

end Sys2Proof.Machine
end

