-- ==== Sys2Proof/Machine/HostAccess.lean ====
section
/-! DEFINITION. What an agent's turn does: the host's accesses (10_state.md R22, R23, R28, R29, R40; 20_memory.md
R64, R65; 60_exceptions.md R243, R248; 70_reset_and_hazards.md R274), the engine's step, the reset event, and the
interleaving of them (R280). -/

namespace Sys2Proof.Machine

/-! ## Register and byte accesses -/

/-- A host read of register number `n`: unmapped, then busy, then unwritten, each a fault the spec names (R29, R246,
R248). It has no side effect (R70). -/
def State.hostRead (s : State) (n : Nat) : Except Fault U64 :=
  match Reg.ofNumber n with
  | none => .error .unmappedRegister
  | some r =>
    if s.busy ∧ (r = .resLo ∨ r = .resHi) then .error .resultReadWhileBusy
    else if s.written r = false then .error .unwrittenRead
    else .ok (s.value r)

/-- A host write to CMD (R35): the busy check, CMD keeps the word, a rejected word ends in the error response, a
command is accepted by its own meaning. -/
def State.writeCmd (s : State) (w : U32) : Answer :=
  if s.busy then .fault .writeWhileBusy
  else
    match decode w with
    | .error code => .next (State.raiseError { s with cmd := w } code)
    | .ok i => exec i { s with cmd := w }

/-- A host write of an input register: refused while BUSY, else stored with its mark (R29, R274). -/
def State.writeInput (s : State) (r : Reg) (v : U64) : Answer :=
  if s.busy then .fault .writeWhileBusy else .next (s.setReg r v)

/-- A host write of register number `n` (R22, R23, R28, R29, R40, R246). -/
def State.hostWrite (s : State) (n : Nat) (v : U64) : Answer :=
  match Reg.ofNumber n with
  | none => .fault .unmappedRegister
  | some .cmd => s.writeCmd (v.setWidth 32)
  | some .status => .next s
  | some .keyLen => s.writeInput .keyLen v
  | some .seed => s.writeInput .seed v
  | some (.oph j) => s.writeInput (.oph j) v
  | some (.opk j) => s.writeInput (.opk j) v
  | some .resLo => .next s
  | some .resHi => .next s

/-- `MemWrite(off, 1, v)` (R64). -/
def State.hostWriteByte (s : State) (off : Nat) (v : Byte) : Answer :=
  if s.cfg.bufBytes.toNat ≤ off then .fault .bufferRange
  else if s.busy then .fault .writeWhileBusy
  else .next (s.setByte off v)

/-! ## Turns -/

/-- The host has read `v` (R21, R101). -/
def State.observe (s : State) (source : Source) (v : U64) : State :=
  { s with env := { s.env with reads := ⟨source, v⟩ :: s.env.reads } }

/-- The host's next action is `a`. -/
def State.pushAction (s : State) (a : HostAction) : State :=
  { s with env := { s.env with prog := a :: s.env.prog } }

/-- The host's first action is taken off. -/
def State.popAction (s : State) : State := { s with env := { s.env with prog := s.env.prog.tail } }

/-- `[hi:lo]` of a value, zero-extended (R9, R101). The rules give no meaning to a field that is not inside the value
(`hi` below `lo`, `hi` above 63, `hi` above 31 for the 32-bit CMD, STATUS and KEY_LEN): the model reads a missing bit as
0, and a field with `hi` below `lo` as 0 (DESIGN CHOICE, log entry 14). -/
def fieldOf (v : U64) (hi lo : Nat) : U64 := (v.extractLsb' lo (hi + 1 - lo)).setWidth 64

/-- One host action, already taken off the host's list (R101, R102). MOV's second step, and WAIT's next poll, go back
on the list. R101 makes the value of RD part of the observation and says nothing of the values that MOV, WAIT and a byte
read return; the model adds them to what the host has read too, not told apart from RD's (DESIGN CHOICE, log
entry 5). -/
def State.hostAction (s : State) : HostAction → Answer
  | .wr n v => s.hostWrite n v
  | .rd n =>
    match s.hostRead n with
    | .error f => .fault f
    | .ok v => .next (s.observe (.reg n) v)
  | .wrb off v => s.hostWriteByte off v
  | .rdb off =>
    match s.readByte off with
    | .error f => .fault f
    | .ok b => .next (s.observe (.byte off) (b.setWidth 64))
  | .mov dst src hi lo =>
    match s.hostRead src with
    | .error f => .fault f
    | .ok v => .next ((s.observe (.reg src) v).pushAction (.wr dst (fieldOf v hi lo)))
  | .wait =>
    let t := s.observe (.reg 1) (s.value .status)
    if s.busy then .next (t.pushAction .wait) else .next t

/-- Whose turn it is: the schedule's first agent; when the schedule has run out, the engine while BUSY and the host
otherwise, so every schedule is fair (R280, log entry 4). -/
def State.turn (s : State) : Agent :=
  match s.env.schedule with
  | a :: _ => a
  | [] => if s.busy then .engine else .host

/-- The state with the turn taken off the schedule. -/
def State.popTurn (s : State) : State := { s with env := { s.env with schedule := s.env.schedule.tail } }

/-- The host's turn: its next action, or nothing to do. -/
def State.hostTurn (s : State) : Answer :=
  match s.env.prog with
  | [] => .next s
  | a :: _ => s.popAction.hostAction a

/-- The engine's turn: a step of the accepted command while BUSY (R36), else no step is enabled. -/
def State.engineTurn (s : State) : Answer := if s.busy then exec s.eng.cmd s else .next s

/-- A turn that faults leaves the fault record (R247). -/
def State.settle (s : State) : Answer → Answer
  | .next t => .next t
  | .fault f => .next (s.enterFaulted f)
  | .refused r => .refused r

/-- A turn of the host or the engine: in `faulted` none is enabled, and the run is stuck (R247). -/
def State.enabledTurn (s : State) (a : Answer) : Answer :=
  match s.faulted with
  | some f => .fault f
  | none => s.settle a

/-- One turn (R280). Reset may come in any state, `faulted` included (R270). -/
def State.takeTurn (s : State) : Answer :=
  match s.turn with
  | .platform => .next s.popTurn.resetBlock
  | .engine => s.popTurn.enabledTurn s.popTurn.engineTurn
  | .host => s.popTurn.enabledTurn s.popTurn.hostTurn

/-! ## Placing a command -/

/-- The state with register `r` marked written and its value as it was. -/
def State.mark (s : State) (r : Reg) : State := s.setReg r (s.value r)

/-- The state in which the very next turn is the host's write of `w` to CMD, and nothing stands in its way: the host
has written the registers the command reads (their values stay as they were), no command runs, no fault is recorded
(70_reset_and_hazards.md R272 steps 1 and 2; log entry 8). -/
def State.placeCommand (s : State) (w : U32) : State :=
  let s := match decode w with
    | .ok i => i.reads.foldl State.mark s
    | .error _ => s
  { s with
    status := if s.busy then ⟨.idle, .noError⟩ else s.status
    eng := { s.eng with phase := .idle }
    faulted := none
    env := { s.env with
      prog := .wr 0 (w.setWidth 64) :: s.env.prog
      schedule := .host :: s.env.schedule } }

end Sys2Proof.Machine
end

