-- ==== Sys2Proof/Machine/HostProgram.lean ====
section
/-! DEFINITION. The assembler's forms as lists of host actions (30_encoding.md R100 to R105), and the caller's seed
conversion (10_state.md R26). -/

namespace Sys2Proof.Machine

/-- `CMD <command>`: a write of the encoded word to register 0 (R100, R101). -/
def asmCmd (i : Instr) : List HostAction := [.wr 0 ((encode i).setWidth 64)]

/-- `RUN <command>` (R105). -/
def asmRun (i : Instr) : List HostAction := asmCmd i ++ [.wait]

/-- `HASH128 [x64 | x86]`, by default x64 (R103). -/
def asmHash128 (x86 : Bool := false) : List HostAction :=
  if x86 then asmCmd .hash128X86 else asmCmd .hash128X64

/-- `WRB off, b_0; WRB off + 1, b_1; …` (R64: a multi-byte write is byte writes at increasing offsets). -/
def asmBytes (off : Nat) : List Byte → List HostAction
  | [] => []
  | b :: bs => .wrb off b :: asmBytes (off + 1) bs

/-- `KEY` on bytes: the byte writes from offset 0, then KEY_LEN (R104). -/
def asmKey (bytes : List Byte) : List HostAction :=
  asmBytes 0 bytes ++ [.wr 2 (BitVec.ofNat 64 bytes.length)]

/-- The value of a hexadecimal digit. -/
def hexDigit (c : Char) : Option Nat :=
  if 48 ≤ c.toNat ∧ c.toNat ≤ 57 then some (c.toNat - 48)
  else if 65 ≤ c.toNat ∧ c.toNat ≤ 70 then some (c.toNat - 55)
  else if 97 ≤ c.toNat ∧ c.toNat ≤ 102 then some (c.toNat - 87)
  else none

/-- The bytes of a KEY text: characters 0x20 to 0x7E stand for their ASCII codes and `\xHH` for the byte 0xHH
(R104). R104 gives no meaning to a `\x` that two hexadecimal digits do not follow; the model rejects the text, and a
backslash before any other character is the character itself. R104 gives no meaning to a character outside 0x20 to 0x7E
either (a control or a non-ASCII character): the model rejects the whole text (DESIGN CHOICE, log entry 13). -/
def keyText : List Char → Option (List Byte)
  | [] => some []
  | '\\' :: 'x' :: h :: l :: rest =>
    match hexDigit h, hexDigit l, keyText rest with
    | some a, some b, some bs => some (BitVec.ofNat 8 (16 * a + b) :: bs)
    | _, _, _ => none
  | '\\' :: 'x' :: _ => none
  | c :: rest =>
    if 0x20 ≤ c.toNat ∧ c.toNat ≤ 0x7E then
      match keyText rest with
      | some bs => some (BitVec.ofNat 8 c.toNat :: bs)
      | none => none
    else none

/-- The SEED value of a caller's integer seed: `s mod 2^64` (R26). -/
def seedOf (seed : Int) : U64 := BitVec.ofInt 64 seed

/-- Actions R101 gives a meaning to as they are written: the value of a `WR` fits its register, and the field of a `MOV`
lies inside its source; registers 0 to 2 have 32 bits (R20). What other actions do is log entries 6 and 14. -/
def HostAction.fits : HostAction → Bool
  | .wr n v => if n < 3 then decide (v.toNat < 2 ^ 32) else true
  | .rd _ => true
  | .wrb _ _ => true
  | .rdb _ => true
  | .mov _ src hi lo => decide (lo ≤ hi ∧ hi < if src < 3 then 32 else 64)
  | .wait => true

end Sys2Proof.Machine
end

