-- ==== Sys2Proof/Safety.lean ====
section
/-! DEFINITION. The terms statements are made in: the invariant of the machine, runs of engine steps, fault-free
programs. -/

namespace Sys2Proof.Machine

/-- The block size of a full-hash command (00_scope.md R7): 4 for HASH32, 16 for the two others. -/
def blockBytes (i : Instr) : Nat := if i = .hash32 then 4 else 16

/-- What holds while a command runs: CMD holds its word, its inputs are there, and the phase and the block counter
stand where R36 puts them. -/
structure State.Running (s : State) : Prop where
  word : decode s.cmd = .ok s.eng.cmd
  legal : s.eng.cmd.wf = true
  inputs : s.eng.cmd.reads.all s.written = true
  phase : s.eng.phase = .exec ↔ s.eng.cmd.fullHash = false
  key : s.eng.cmd.fullHash = true →
    s.keyLength ≤ s.cfg.bufBytes.toNat ∧ s.keyWritten s.keyLength = true
  block : s.eng.phase = .block → s.eng.blk < s.nBlocks (blockBytes s.eng.cmd)
  blocksDone : s.eng.phase = .tail ∨ s.eng.phase = .final → s.eng.blk = s.nBlocks (blockBytes s.eng.cmd)

/-- The invariant of the machine: the key buffer keeps its canonical form and its size; `eng.phase` is IDLE iff STATE
is not BUSY (R31); ERR is NONE unless STATE is ERROR (R23); STATE means what R24 says; a running command is as
`State.Running` says. That CMD is 0 in IDLE rests on a faulting CMD write leaving no word in CMD (log entry 7). -/
structure State.Inv (s : State) : Prop where
  bufWf : Memory.wf s.buf = true
  bufWithin : Memory.within s.cfg.bufBytes.toNat s.buf = true
  phaseIdle : s.eng.phase = .idle ↔ s.status.state ≠ .busy
  errCode : s.status.err ≠ .noError ↔ s.status.state = .error
  fresh : s.status.state = .idle → s.cmd = 0 ∧ s.res.written = false
  result : s.status.state = .done → s.res.written = true
  running : s.status.state = .busy → s.Running

/-- `k` engine steps one after another, with no host step between them (R36). -/
def engineRun : Nat → State → Answer
  | 0, s => .next s
  | k + 1, s =>
    match exec s.eng.cmd s with
    | .next t => engineRun k t
    | .fault f => .fault f
    | .refused r => .refused r

/-- The engine steps a running command has left (70_reset_and_hazards.md R281). -/
def State.stepsLeft (s : State) : Nat :=
  match s.eng.phase with
  | .idle => 0
  | .exec => 1
  | .init => s.nBlocks (blockBytes s.eng.cmd) + 3
  | .block => s.nBlocks (blockBytes s.eng.cmd) - s.eng.blk + 2
  | .tail => 2
  | .final => 1

/-- The key the buffer and KEY_LEN hold (20_memory.md R60): the bytes at offsets 0 to KEY_LEN - 1. -/
def State.HoldsKey (s : State) (key : List Byte) : Prop :=
  key.length = s.keyLength ∧ key.length ≤ s.cfg.bufBytes.toNat ∧
    ∀ i (h : i < key.length), s.buf.read i = some key[i]

/-- Two states agree on what command `i` reads (R95): its registers, and for a full hash the key bytes. -/
def AgreeOnInputs (i : Instr) (s t : State) : Prop :=
  (∀ r ∈ i.reads, s.value r = t.value r) ∧
    (i.fullHash = true → ∀ a, a < s.keyLength → s.buf.read a = t.buf.read a)

/-- A run of `k` steps from `s` that faults nowhere. -/
def FaultFreeFor : Nat → State → Prop
  | 0, s => s.faulted = none
  | k + 1, s => s.faulted = none ∧ ∃ t, step s = .next t ∧ FaultFreeFor k t

/-- A host program that is well-formed on a block with parameters `cfg`: none of its runs from reset faults, whatever
the schedule of host and engine (60_exceptions.md R247; a reset during the run would discard what the program wrote). -/
def WellFormedProgram (cfg : Config) (prog : List HostAction) : Prop :=
  ∀ (schedule : List Agent) (k : Nat), Agent.platform ∉ schedule →
    FaultFreeFor k { State.reset with cfg := cfg, env := ⟨prog, schedule, []⟩ }

end Sys2Proof.Machine
end

