-- ==== Sys2Proof/Certificates/Slice0/Obligations.lean ====
section
/-! DEFINITION. The statements for the provers, each a formal reading of numbered rules of the spec. -/

namespace Sys2Proof.Claims

open Sys2Proof.Machine

/-- Command `i` is the word `w`, and every other word with the same `op` is RESERVED_FIELD (R92, R93). -/
def EncodedAs (i : Instr) (w : U32) : Prop :=
  encode i = w ∧ decode w = .ok i ∧ ∀ v : U32, opField v = opField w → v ≠ w → decode v = .error .reservedField

/-- The state acceptance of `i` leaves, with the engine in `phase` (R35). -/
def accepted (s : State) (i : Instr) (phase : Phase) : State :=
  { s with status := ⟨.busy, .noError⟩, eng := { s.eng with phase := phase, cmd := i } }

/-- The state a rejection leaves (R242). -/
def rejected (s : State) (code : ErrCode) : State := { s with status := ⟨.error, code⟩ }

/-- The state a completion step leaves (R36). -/
def completed (s : State) (v : U128) : State :=
  { s with res := ⟨v, true⟩, status := ⟨.done, .noError⟩, eng := { s.eng with phase := .idle } }

/-- Acceptance of a primitive or stage command that reads the registers `needs`: UnwrittenRead if one of them is
unwritten, otherwise it starts in EXEC (R35, R95). -/
def AcceptsWith (i : Instr) (needs : List Reg) : Prop :=
  ∀ s : State, s.eng.phase = .idle →
    ((∃ r ∈ needs, s.written r = false) → exec i s = .fault .unwrittenRead) ∧
    ((∀ r ∈ needs, s.written r = true) → exec i s = .next (accepted s i .exec))

/-- The EXEC step of `i`: it completes with `result`, in every state, and changes nothing but RES, STATUS and the
phase (R36). -/
def CompletesWith (i : Instr) (result : State → U128) : Prop :=
  ∀ s : State, s.eng.phase = .exec → s.eng.cmd = i → exec i s = .next (completed s (result s))

/-- `x[OPHj][31:0]`, read off the register. -/
def oph32 (s : State) : Quad U32 :=
  ⟨s.oph.q0.value.extractLsb' 0 32, s.oph.q1.value.extractLsb' 0 32, s.oph.q2.value.extractLsb' 0 32,
    s.oph.q3.value.extractLsb' 0 32⟩

/-- `x[OPKj][31:0]`, read off the register. -/
def opk32 (s : State) : Quad U32 :=
  ⟨s.opk.q0.value.extractLsb' 0 32, s.opk.q1.value.extractLsb' 0 32, s.opk.q2.value.extractLsb' 0 32,
    s.opk.q3.value.extractLsb' 0 32⟩

/-- `cat(a4, a3, a2, a1)` with each word zero-extended and shifted to its place (R97). -/
def cat4 (a1 a2 a3 a4 : U32) : U128 :=
  a1.setWidth 128 ||| (a2.setWidth 128 <<< 32) ||| (a3.setWidth 128 <<< 64) ||| (a4.setWidth 128 <<< 96)

/-- `cat(a2, a1)` (R97). -/
def cat2 (a1 a2 : U64) : U128 := a1.setWidth 128 ||| (a2.setWidth 128 <<< 64)

/-- A 32-bit cell write keeps the cell's high half (R32). -/
def lowWritten (cell : U64) (v : U32) : U64 := (cell >>> 32 <<< 32) ||| v.setWidth 64

/-- A byte of a key as a 64-bit value. -/
def byteAt (key : List Byte) (i : Nat) : U64 := (key.getD i 0).setWidth 64

/-- Bytes `off` to `off + 3` of a key, little-endian (R62, R66). -/
def keyWord32 (key : List Byte) (off : Nat) : U32 :=
  (byteAt key off ||| (byteAt key (off + 1) <<< 8) ||| (byteAt key (off + 2) <<< 16) |||
    (byteAt key (off + 3) <<< 24)).setWidth 32

/-- Bytes `off` to `off + 7` of a key, little-endian (R62, R66). -/
def keyWord64 (key : List Byte) (off : Nat) : U64 :=
  (keyWord32 key off).setWidth 64 ||| ((keyWord32 key (off + 4)).setWidth 64 <<< 32)

/-- The engine runs `i` in `phase` on the key `key`. -/
def InPhase (s : State) (i : Instr) (phase : Phase) (key : List Byte) : Prop :=
  s.eng.phase = phase ∧ s.eng.cmd = i ∧ s.HoldsKey key

/-- Acceptance of a full-hash command (R35): operand registers, LEN_RANGE, key bytes, then INIT. -/
def AcceptsHash (i : Instr) : Prop :=
  ∀ s : State, s.eng.phase = .idle →
    (s.seed.written = false ∨ s.keyLen.written = false → exec i s = .fault .unwrittenRead) ∧
    (s.seed.written = true → s.keyLen.written = true →
      (s.cfg.bufBytes.toNat < s.keyLen.value.toNat → exec i s = .next (rejected s .lenRange)) ∧
      (s.keyLen.value.toNat ≤ s.cfg.bufBytes.toNat →
        ((∃ a, a < s.keyLen.value.toNat ∧ s.buf.read a = none) → exec i s = .fault .unwrittenRead) ∧
        ((∀ a, a < s.keyLen.value.toNat → s.buf.read a ≠ none) → exec i s = .next (accepted s i .init))))

/-- The result of a full hash: from INIT with the key in the buffer, `n / bs + 3` engine steps complete the command
with `digest`, and nothing but RES, STATUS and the engine has changed. -/
def HashResult (i : Instr) (bs : Nat) (digest : List Byte → U64 → U128) : Prop :=
  ∀ (s : State) (key : List Byte), InPhase s i .init key →
    ∃ t, engineRun (key.length / bs + 3) s = .next t ∧
      t = { s with
        res := ⟨digest key s.seed.value, true⟩
        status := ⟨.done, .noError⟩
        eng := t.eng } ∧
      t.eng.phase = .idle ∧ t.eng.cmd = i

end Sys2Proof.Claims

open Sys2Proof Sys2Proof.Machine Sys2Proof.Claims

/-! ## Encoding -/

/-- 30_encoding.md sections 1 and 2: no bit of a command word is dropped, in either direction. The commands include the
rotates by an illegal amount, which the decoder keeps (the model's choice, log entry 11). -/
def Obligations.DecodeEncodeAgree : Prop :=
  (∀ i : Instr, decode (encode i) = .ok i) ∧ (∀ (w : U32) (i : Instr), decode w = .ok i → encode i = w)

/-- 30_encoding.md section 2 (R94): `decode_check` says NONE on exactly the words the decoder reads as a well-formed
command, and the decoder's own rejections have its code. On a word it gives BAD_ROTATE the decoder does not reject: it
answers the ill-formed rotate, whose acceptance raises the error (the model's choice, log entry 11). -/
def Obligations.DecoderFollowsDecodeCheck : Prop :=
  ∀ w : U32,
    (decodeCheck w = .noError ↔ ∃ i, decode w = .ok i ∧ i.wf = true) ∧
    (decodeCheck w = .badRotate ↔ ∃ i, decode w = .ok i ∧ i.wf = false) ∧
    (∀ c, decode w = .error c ↔ decodeCheck w = c ∧ (c = .illegalOp ∨ c = .reservedField))

/-- R92, R93, R98: which words are rejected, and with which code. -/
def Obligations.MalformedWordsRejected : Prop :=
  ∀ (s : State) (w : U32), s.status.state ≠ .busy → s.eng.phase = .idle →
    let op := (w.extractLsb' 0 5).toNat
    let amt := (w.extractLsb' 5 6).toNat
    let high := w.extractLsb' 11 21
    let out (c : ErrCode) : Answer := .next (rejected { s with cmd := w } c)
    (op = 0x00 ∨ 0x12 ≤ op → s.writeCmd w = out .illegalOp) ∧
    (0x01 ≤ op ∧ op ≤ 0x11 → high ≠ 0 → s.writeCmd w = out .reservedField) ∧
    (0x01 ≤ op ∧ op ≤ 0x11 → op ≠ 0x04 → op ≠ 0x05 → amt ≠ 0 → s.writeCmd w = out .reservedField) ∧
    (op = 0x04 → high = 0 → amt = 0 ∨ 32 ≤ amt → s.writeCmd w = out .badRotate) ∧
    (op = 0x05 → high = 0 → amt = 0 → s.writeCmd w = out .badRotate) ∧
    (op = 0x04 → high = 0 → 1 ≤ amt ∧ amt ≤ 31 → s.writeCmd w = exec (.rotl32 (w.extractLsb' 5 6)) { s with cmd := w }) ∧
    (op = 0x05 → high = 0 → 1 ≤ amt → s.writeCmd w = exec (.rotl64 (w.extractLsb' 5 6)) { s with cmd := w }) ∧
    (∀ t, s.writeCmd w = .next t → t.status.state = .busy ∨ t.status.state = .error)

/-- 95_test_vectors.md section 2.5: a few words written out from the encoding. -/
def Obligations.SpecWordsDecode : Prop :=
  decode 0x00000001 = .ok .hash32 ∧ decode 0x00000002 = .ok .hash128X64 ∧ decode 0x00000003 = .ok .hash128X86 ∧
  decode 0x000001A4 = .ok (.rotl32 13) ∧ decode 0x000003E5 = .ok (.rotl64 31) ∧ decode 0x00000006 = .ok .scramble32 ∧
  decode 0x00000009 = .ok .mix32 ∧ decode 0x0000000D = .ok .tail64 ∧ decode 0x00000011 = .ok .fin86 ∧
  decode 0x80000000 = .error .illegalOp ∧ decode 0x00000FE4 = .error .reservedField ∧
  decodeCheck 0x00000404 = .badRotate ∧ decodeCheck 0x000007E5 = .noError

/-! ## Reset -/

/-- 10_state.md section 3 (R39): what reset leaves. The values the model chooses (log entries 1 and 2) are not claimed. -/
def Obligations.ResetState : Prop :=
  State.reset.cmd = 0x00000000 ∧ State.reset.status.word = 0x00000000 ∧
  State.reset.status.state = .idle ∧ State.reset.status.err = .noError ∧
  (∀ r : Reg, r ≠ .cmd → r ≠ .status → State.reset.written r = false) ∧
  (∀ off : Nat, State.reset.buf.read off = none) ∧
  State.reset.eng.phase = .idle ∧ State.reset.faulted = none

/-- 10_state.md sections 1 and 3 (R29, R39): what the host can read after reset. -/
def Obligations.ReadsAfterReset : Prop :=
  State.reset.hostRead 0 = .ok 0 ∧ State.reset.hostRead 1 = .ok 0 ∧
  (∀ n, 2 ≤ n → n ≤ 13 → State.reset.hostRead n = .error .unwrittenRead) ∧
  (∀ (cfg : Config) (off : Nat), off < cfg.bufBytes.toNat →
    State.readByte { State.reset with cfg := cfg } off = .error .unwrittenRead)

/-- The invariant of the machine holds at reset (10_state.md R31, R39; 20_memory.md R60). -/
def Obligations.ResetMeetsInvariant : Prop := State.reset.Inv

/-- 70_reset_and_hazards.md section 1 (R270): the reset event, in any state, `faulted` and BUSY included: every part of
the block is at its reset value, no value survives, no command runs. The first equation also fixes what R39 leaves
unspecified, as the model's choice: the values under clear marks (log entry 1) and the lanes, eng.op, eng.amt and eng.blk
(log entry 2). -/
def Obligations.ResetEventRestoresBlock : Prop :=
  ∀ (s : State) (rest : List Agent), s.env.schedule = .platform :: rest →
    ∃ t, step s = .next t ∧ t = { State.reset with cfg := s.cfg, env := { s.env with schedule := rest } } ∧
      t.cmd = 0 ∧ t.status.word = 0 ∧ t.status = ⟨.idle, .noError⟩ ∧
      (∀ r : Reg, r ≠ .cmd → r ≠ .status → t.written r = false) ∧ (∀ off, t.buf.read off = none) ∧
      t.eng.phase = .idle ∧ t.faulted = none

/-! ## Host accesses -/

/-- R40: exactly the numbers 14 and above are unmapped. -/
def Obligations.UnmappedRegistersFault : Prop :=
  ∀ (s : State) (n : Nat) (v : U64),
    (14 ≤ n → s.hostRead n = .error .unmappedRegister ∧ s.hostWrite n v = .fault .unmappedRegister) ∧
    (n < 14 → s.hostRead n ≠ .error .unmappedRegister ∧ s.hostWrite n v ≠ .fault .unmappedRegister)

/-- R23: the fields of STATUS, always readable, read-only. -/
def Obligations.StatusWordFields : Prop :=
  ∀ s : State, s.Inv →
    s.status.word.extractLsb' 0 2 =
      (match s.status.state with | .idle => 0 | .busy => 1 | .done => 2 | .error => 3 : BitVec 2) ∧
    s.status.word.extractLsb' 2 2 = 0 ∧
    s.status.word.extractLsb' 4 4 =
      (match s.status.err with
        | .noError => 0 | .illegalOp => 1 | .reservedField => 2 | .badRotate => 3 | .lenRange => 4 : BitVec 4) ∧
    s.status.word.extractLsb' 8 24 = 0 ∧
    (s.status.state ≠ .error → s.status.word.extractLsb' 4 4 = 0) ∧
    s.hostRead 1 = .ok (s.status.word.setWidth 64) ∧
    ∀ v, s.hostWrite 1 v = .next s

/-- R274: what the host may and may not do while BUSY. -/
def Obligations.BusyRule : Prop :=
  ∀ s : State, s.status.state = .busy →
    (∀ n v, n = 0 ∨ (2 ≤ n ∧ n ≤ 11) → s.hostWrite n v = .fault .writeWhileBusy) ∧
    (∀ off v, off < s.cfg.bufBytes.toNat → s.hostWriteByte off v = .fault .writeWhileBusy) ∧
    s.hostRead 1 = .ok (s.status.word.setWidth 64) ∧
    (∀ n, n = 0 ∨ (2 ≤ n ∧ n ≤ 11) → ∃ r, Reg.ofNumber n = some r ∧
      s.hostRead n = if s.written r then .ok (s.value r) else .error .unwrittenRead) ∧
    (∀ off, off < s.cfg.bufBytes.toNat →
      s.readByte off = match s.buf.read off with
        | some b => .ok b
        | none => .error .unwrittenRead) ∧
    (∀ n v, n = 1 ∨ n = 12 ∨ n = 13 → s.hostWrite n v = .next s) ∧
    (∀ n, s.hostRead n = .error .resultReadWhileBusy ↔ n = 12 ∨ n = 13)

/-- R28: RES is read as its two halves, only when it may be; a write to it has no effect; only a completion step (or
reset) changes it, and leaves its unused high bits zero. -/
def Obligations.ResultRegister : Prop :=
  (∀ s : State, s.status.state ≠ .busy → s.res.written = true →
    s.hostRead 12 = .ok (s.res.value.extractLsb' 0 64) ∧ s.hostRead 13 = .ok (s.res.value.extractLsb' 64 64)) ∧
  (∀ s : State, s.status.state ≠ .busy → s.res.written = false →
    s.hostRead 12 = .error .unwrittenRead ∧ s.hostRead 13 = .error .unwrittenRead) ∧
  (∀ s : State, s.status.state = .busy →
    s.hostRead 12 = .error .resultReadWhileBusy ∧ s.hostRead 13 = .error .resultReadWhileBusy) ∧
  (∀ (s : State) (v : U64), s.hostWrite 12 v = .next s ∧ s.hostWrite 13 v = .next s) ∧
  (∀ s t : State, s.Inv → step s = .next t → t.res ≠ s.res →
    s.turn = .platform ∨
      (s.turn = .engine ∧ s.status.state = .busy ∧ (s.eng.phase = .exec ∨ s.eng.phase = .final) ∧
        t.status = ⟨.done, .noError⟩ ∧ t.res.written = true)) ∧
  (∀ s t : State, exec s.eng.cmd s = .next t → s.eng.phase = .exec ∨ s.eng.phase = .final →
    (s.eng.cmd.opcode ∈ [0x01, 0x04, 0x06, 0x07, 0x09, 0x0A, 0x0B] → t.res.value.extractLsb' 32 96 = 0) ∧
    (s.eng.cmd.opcode ∈ [0x05, 0x08] → t.res.value.extractLsb' 64 64 = 0))

/-- 10_state.md section 1 (R22): a write to CMD stores the raw word and starts the command lifecycle; CMD reads as the
last word written, or 0 after reset. That a 64-bit value's low 32 bits are the word is the model's reading (log
entry 6). -/
def Obligations.CmdReadsLastWord : Prop :=
  State.reset.hostRead 0 = .ok 0 ∧
  (∀ (s : State) (v : U64), s.hostWrite 0 v = s.writeCmd (v.setWidth 32)) ∧
  (∀ (s t : State) (w : U32), s.eng.phase = .idle → s.writeCmd w = .next t →
    t.cmd = w ∧ t.hostRead 0 = .ok (w.setWidth 64)) ∧
  (∀ s t : State, s.Inv → step s = .next t → t.cmd ≠ s.cmd →
    (s.turn = .platform ∧ t.cmd = 0) ∨
      (s.turn = .host ∧ ∃ v rest, s.env.prog = .wr 0 v :: rest ∧ t.cmd = v.setWidth 32))

/-- 10_state.md section 1 (R25 to R27, R29): a host write to an input register completes unless BUSY; the register then
reads as written (KEY_LEN the low 32 bits, the model's reading, log entry 6), and no other register changes. -/
def Obligations.RegisterWriteThenRead : Prop :=
  (∀ (s : State) (n : Nat) (v : U64), 2 ≤ n → n ≤ 11 → s.status.state ≠ .busy → ∃ t, s.hostWrite n v = .next t) ∧
  ∀ (s t : State) (n : Nat) (v : U64), 2 ≤ n → n ≤ 11 → s.hostWrite n v = .next t →
    t.hostRead n = .ok (if n = 2 then (v.setWidth 32).setWidth 64 else v) ∧
    (∀ m, m ≠ n → t.hostRead m = s.hostRead m) ∧
    (∀ off, t.readByte off = s.readByte off) ∧
    t.eng = s.eng ∧ t.env = s.env ∧ t.cfg = s.cfg ∧ t.faulted = s.faulted

/-- R64, R65: the host's byte write and byte read, in their check order. -/
def Obligations.KeyByteAccess : Prop :=
  ∀ (s : State) (off : Nat) (v : Byte),
    (s.cfg.bufBytes.toNat ≤ off →
      s.hostWriteByte off v = .fault .bufferRange ∧ s.readByte off = .error .bufferRange) ∧
    (off < s.cfg.bufBytes.toNat → s.status.state = .busy → s.hostWriteByte off v = .fault .writeWhileBusy) ∧
    (off < s.cfg.bufBytes.toNat → s.status.state ≠ .busy →
      ∃ t, s.hostWriteByte off v = .next t ∧ t = { s with buf := t.buf } ∧
        t.readByte off = .ok v ∧ ∀ a, a ≠ off → t.readByte a = s.readByte a) ∧
    (off < s.cfg.bufBytes.toNat → s.buf.read off = none → s.readByte off = .error .unwrittenRead) ∧
    (off < s.cfg.bufBytes.toNat → ∀ b, s.buf.read off = some b → s.readByte off = .ok b)

/-! ## Acceptance -/

/-- 10_state.md section 3 (R35) and 60_exceptions.md section 1 (R243, which the spec derives from R35): acceptance, the
check order of a CMD write with each outcome in full, and the fault record a fault leaves. The last clause rests on the
model's choices: a faulting write keeps no partial state (log entry 7, which R247 permits), and a 64-bit value's low 32
bits are the word (log entry 6). -/
def Obligations.AcceptanceCheckOrder : Prop :=
  (∀ (s : State) (w : U32), s.Inv →
    (s.status.state = .busy → s.writeCmd w = .fault .writeWhileBusy) ∧
    (s.status.state ≠ .busy →
      let u := { s with cmd := w }
      (decodeCheck w ≠ .noError → s.writeCmd w = .next (rejected u (decodeCheck w))) ∧
      (∀ i, decodeCheck w = .noError → decode w = .ok i →
        ((∃ r ∈ i.reads, s.written r = false) → s.writeCmd w = .fault .unwrittenRead) ∧
        ((∀ r ∈ i.reads, s.written r = true) →
          (i.fullHash = false → s.writeCmd w = .next (accepted u i .exec)) ∧
          (i.fullHash = true → s.cfg.bufBytes.toNat < s.keyLen.value.toNat →
            s.writeCmd w = .next (rejected u .lenRange)) ∧
          (i.fullHash = true → s.keyLen.value.toNat ≤ s.cfg.bufBytes.toNat →
            ((∃ a, a < s.keyLen.value.toNat ∧ s.buf.read a = none) → s.writeCmd w = .fault .unwrittenRead) ∧
            ((∀ a, a < s.keyLen.value.toNat → s.buf.read a ≠ none) →
              s.writeCmd w = .next (accepted u i .init))))))) ∧
  (∀ (s : State) (v : U64) (rest : List HostAction) (f : Fault), s.faulted = none → s.turn = .host →
    s.env.prog = .wr 0 v :: rest →
    State.writeCmd { s with env := ⟨rest, s.env.schedule.tail, s.env.reads⟩ } (v.setWidth 32) = .fault f →
    step s = .next { s with faulted := some f, env := { s.env with schedule := s.env.schedule.tail } })

/-- R242: an error response comes only from a CMD write and changes only CMD and STATUS; LEN_RANGE is the one raised
after `decode_check`; the engine takes no step after it. -/
def Obligations.ErrorResponse : Prop :=
  (∀ (s t : State) (w : U32), s.Inv → s.writeCmd w = .next t → t.status.state = .error →
    t = { s with cmd := w, status := ⟨.error, t.status.err⟩ } ∧
    ((decodeCheck w ≠ .noError ∧ t.status.err = decodeCheck w) ∨
      (decodeCheck w = .noError ∧ t.status.err = .lenRange ∧ s.cfg.bufBytes.toNat < s.keyLen.value.toNat ∧
        ∃ i, decode w = .ok i ∧ i.fullHash = true))) ∧
  (∀ s t : State, s.Inv → step s = .next t → t.status.state = .error → t.status ≠ s.status →
    s.turn = .host ∧ ∃ v rest, s.env.prog = .wr 0 v :: rest) ∧
  (∀ s t : State, s.status.state = .error → s.turn = .engine → step s = .next t → t = { s with env := t.env })

/-! ## The primitive and stage commands -/

/-- 40_primitives.md section 2 (R125): ROTL32. That the decoder answers the rotate for an illegal amount too, whose
acceptance then raises BAD_ROTATE, is the model's choice (log entry 11). -/
def Obligations.Rotl32Command : Prop :=
  (∀ amt : BitVec 6, encode (.rotl32 amt) = enc 0x04 amt ∧ decode (enc 0x04 amt) = .ok (.rotl32 amt)) ∧
  encode (.rotl32 13) = 0x000001A4 ∧
  (∀ w : U32, opField w = 0x04 → reservedBits w ≠ 0 → decode w = .error .reservedField) ∧
  (∀ amt : BitVec 6, (amt.toNat = 0 ∨ 32 ≤ amt.toNat) → ∀ s : State, s.eng.phase = .idle →
    exec (.rotl32 amt) s = .next (rejected s .badRotate)) ∧
  (∀ amt : BitVec 6, 1 ≤ amt.toNat → amt.toNat ≤ 31 →
    AcceptsWith (.rotl32 amt) [.oph 0] ∧
    CompletesWith (.rotl32 amt) fun s => ((oph32 s).q0.rotateLeft amt.toNat).setWidth 128) ∧
  (∀ r, 1 ≤ r → r ≤ 31 → rotl32 0 r = 0 ∧ rotl32 0xFFFFFFFF r = 0xFFFFFFFF) ∧
  (∀ x : U32, rotl32 x 31 = x.rotateRight 1) ∧ rotl32 0x12345678 13 = 0x8ACF0246

/-- 40_primitives.md section 2 (R126): ROTL64. That the decoder answers the rotate by 0 too, whose acceptance then
raises BAD_ROTATE, is the model's choice (log entry 11). -/
def Obligations.Rotl64Command : Prop :=
  (∀ amt : BitVec 6, encode (.rotl64 amt) = enc 0x05 amt ∧ decode (enc 0x05 amt) = .ok (.rotl64 amt)) ∧
  encode (.rotl64 31) = 0x000003E5 ∧
  (∀ w : U32, opField w = 0x05 → reservedBits w ≠ 0 → decode w = .error .reservedField) ∧
  (∀ amt : BitVec 6, amt.toNat = 0 → ∀ s : State, s.eng.phase = .idle →
    exec (.rotl64 amt) s = .next (rejected s .badRotate)) ∧
  (∀ amt : BitVec 6, 1 ≤ amt.toNat →
    AcceptsWith (.rotl64 amt) [.oph 0] ∧
    CompletesWith (.rotl64 amt) fun s => (s.oph.q0.value.rotateLeft amt.toNat).setWidth 128) ∧
  (∀ r, 1 ≤ r → r ≤ 63 → rotl64 0 r = 0 ∧ rotl64 0xFFFFFFFFFFFFFFFF r = 0xFFFFFFFFFFFFFFFF) ∧
  rotl64 0x0123456789ABCDEF 31 = 0xC4D5E6F78091A2B3

/-- R127: SCRAMBLE32. -/
def Obligations.Scramble32Command : Prop :=
  EncodedAs .scramble32 0x00000006 ∧ AcceptsWith .scramble32 [.opk 0] ∧
  CompletesWith .scramble32 (fun s => (scramble32 (opk32 s).q0).setWidth 128) ∧
  scramble32 0 = 0 ∧ scramble32 0x6C6C6548 = 0x0153080C

/-- R128: FMIX32. -/
def Obligations.Fmix32Command : Prop :=
  EncodedAs .fmix32 0x00000007 ∧ AcceptsWith .fmix32 [.oph 0] ∧
  CompletesWith .fmix32 (fun s => (fmix32 (oph32 s).q0).setWidth 128) ∧
  fmix32 0 = 0 ∧ fmix32 1 = 0x514E28B7 ∧ fmix32 0xFFFFFFFF = 0x81F16F39

/-- R129: FMIX64. -/
def Obligations.Fmix64Command : Prop :=
  EncodedAs .fmix64 0x00000008 ∧ AcceptsWith .fmix64 [.oph 0] ∧
  CompletesWith .fmix64 (fun s => (fmix64 s.oph.q0.value).setWidth 128) ∧
  fmix64 0 = 0 ∧ fmix64 0xFFFFFFFFFFFFFFFF = 0x64B5720B4B825F21 ∧ fmix64 1 = 0xB456BCFC34C2CB2C

/-- R157: MIX32. -/
def Obligations.Mix32Command : Prop :=
  EncodedAs .mix32 0x00000009 ∧ AcceptsWith .mix32 [.oph 0, .opk 0] ∧
  CompletesWith .mix32 (fun s => (mix32 (oph32 s).q0 (opk32 s).q0).setWidth 128) ∧
  mix32 0 0 = 0xE6546B64 ∧ (∀ k : U32, ∃ h : U32, mix32 h k ≠ h) ∧ mix32 0 0x6C6C6548 = 0xCB5BEC36

/-- R158: TAIL32. -/
def Obligations.Tail32Command : Prop :=
  EncodedAs .tail32 0x0000000A ∧ AcceptsWith .tail32 [.oph 0, .opk 0, .keyLen] ∧
  CompletesWith .tail32
    (fun s => (tail32 (oph32 s).q0 (opk32 s).q0 (s.keyLen.value.toNat % 4)).setWidth 128) ∧
  (∀ (h k k' : U32) (t : Nat), t < 4 →
    (∀ i, i < 8 * t → k.getLsbD i = k'.getLsbD i) → tail32 h k t = tail32 h k' t) ∧
  (∀ h k : U32, tail32 h k 0 = h) ∧ tail32 0 0xFF636261 3 = tail32 0 0x00636261 3 ∧
  tail32 0 0xFFFFFF41 1 = 0x4BB9BD7C ∧ scramble32 0x41 = 0x4BB9BD7C

/-- R159: FIN32. -/
def Obligations.Fin32Command : Prop :=
  EncodedAs .fin32 0x0000000B ∧ AcceptsWith .fin32 [.oph 0, .keyLen] ∧
  CompletesWith .fin32 (fun s => (fin32 (oph32 s).q0 s.keyLen.value).setWidth 128) ∧
  (∀ n : U32, fin32 n n = 0) ∧ fin32 0xA1590249 12 = 0x6A728C54

/-- R189: MIX64. -/
def Obligations.Mix64Command : Prop :=
  EncodedAs .mix64 0x0000000C ∧ AcceptsWith .mix64 [.oph 0, .oph 1, .opk 0, .opk 1] ∧
  CompletesWith .mix64 (fun s =>
    let a := mix64 s.oph.q0.value s.oph.q1.value s.opk.q0.value s.opk.q1.value
    cat2 a.1 a.2) ∧
  mix64 0 0 0 0 = (0x0000000052DCE729, 0x00000001D699DE82) ∧
  (5 * 0x52DCE729 + 0x38495AB5 : U64) = 0x00000001D699DE82 ∧
  mix64 10 10 0x77202C6F6C6C6548 0x6548202E646C726F = (0x32D37FB537B334D7, 0x44004B156636A6A3)

/-- R190: TAIL64. -/
def Obligations.Tail64Command : Prop :=
  EncodedAs .tail64 0x0000000D ∧ AcceptsWith .tail64 [.oph 0, .oph 1, .opk 0, .opk 1, .keyLen] ∧
  CompletesWith .tail64 (fun s =>
    let a := tail64 s.oph.q0.value s.oph.q1.value s.opk.q0.value s.opk.q1.value (s.keyLen.value.toNat % 16)
    cat2 a.1 a.2) ∧
  (∀ h1 h2 k1 k2 : U64, tail64 h1 h2 k1 k2 0 = (h1, h2)) ∧
  (∀ (h1 h2 k1 k2 : U64) (t : Nat), 1 ≤ t → t ≤ 8 → (tail64 h1 h2 k1 k2 t).2 = h2) ∧
  (∀ (h1 h2 k1 k2 k2' : U64), k2.setWidth 56 = k2'.setWidth 56 → tail64 h1 h2 k1 k2 15 = tail64 h1 h2 k1 k2' 15) ∧
  (∀ h1 h2 : U64, let ones : U64 := 0xFFFFFFFFFFFFFFFF
    (tail64 h1 h2 ones ones 9).1 = (tail64 h1 h2 ones ones 15).1 ∧
    (tail64 h1 h2 ones ones 9).2 ≠ (tail64 h1 h2 ones ones 15).2) ∧
  tail64 0 0 0x77202C6F6C6C6548 0x00000000646C726F 12 = (0x855B899ADEE33158, 0x81733E833EB16EC9)

/-- R191: FIN64. -/
def Obligations.Fin64Command : Prop :=
  EncodedAs .fin64 0x0000000E ∧ AcceptsWith .fin64 [.oph 0, .oph 1, .keyLen] ∧
  CompletesWith .fin64 (fun s => fin64 s.oph.q0.value s.oph.q1.value s.keyLen.value) ∧
  fin64 0 0 0 = 0 ∧
  fin64 0x855B899ADEE33158 0x81733E833EB16EC9 12 = 0x77416103E3FFF7B8EBD28B45027AB974

/-- R219: MIX86. -/
def Obligations.Mix86Command : Prop :=
  EncodedAs .mix86 0x0000000F ∧
  AcceptsWith .mix86 [.oph 0, .oph 1, .oph 2, .oph 3, .opk 0, .opk 1, .opk 2, .opk 3] ∧
  CompletesWith .mix86 (fun s =>
    let a := mix86 (oph32 s) (opk32 s)
    cat4 a.q0 a.q1 a.q2 a.q3) ∧
  mix86 (Quad.all 0) (Quad.all 0) = ⟨0x561CCD1B, 0x0BCAA747, 0x96CD1C35, 0xE13C3C9E⟩ ∧
  ((0 + 0x561CCD1B) * 5 + 0x32AC3B17 : U32) = 0xE13C3C9E ∧
  (∀ (h k : Quad U32) (k1 : U32), let a := mix86 h k; let b := mix86 h { k with q0 := k1 }
    a.q1 = b.q1 ∧ a.q2 = b.q2 ∧ (k1 ≠ k.q0 → a.q0 ≠ b.q0 ∧ a.q3 ≠ b.q3)) ∧
  mix86 (Quad.all 0) ⟨0x03020100, 0x07060504, 0x0B0A0908, 0x0F0E0D0C⟩ =
    ⟨0x4DA35DC9, 0xE63B85D2, 0x45E13894, 0xE3E40E30⟩

/-- R220: TAIL86. -/
def Obligations.Tail86Command : Prop :=
  EncodedAs .tail86 0x00000010 ∧
  AcceptsWith .tail86 [.oph 0, .oph 1, .oph 2, .oph 3, .opk 0, .opk 1, .opk 2, .opk 3, .keyLen] ∧
  CompletesWith .tail86 (fun s =>
    let a := tail86 (oph32 s) (opk32 s) (s.keyLen.value.toNat % 16)
    cat4 a.q0 a.q1 a.q2 a.q3) ∧
  (∀ h k : Quad U32, tail86 h k 0 = h) ∧
  tail86 (Quad.all 0) (Quad.all 0xFFFFFFFF) 5 = ⟨x86K 0 0xFFFFFFFF, x86K 1 0x000000FF, 0, 0⟩ ∧
  (tail86 (Quad.all 0) (Quad.all 0xFFFFFFFF) 13).q3 = x86K 3 0x000000FF ∧
  (tail86 (Quad.all 0) (Quad.all 0xFFFFFFFF) 15).q3 = x86K 3 0x00FFFFFF ∧
  tail86 (Quad.all 0) ⟨0x6C6C6548, 0x77202C6F, 0x646C726F, 0⟩ 12 = ⟨0x1EEF14A7, 0x709C089B, 0x58482592, 0x00000000⟩

/-- R221: FIN86. -/
def Obligations.Fin86Command : Prop :=
  EncodedAs .fin86 0x00000011 ∧ AcceptsWith .fin86 [.oph 0, .oph 1, .oph 2, .oph 3, .keyLen] ∧
  CompletesWith .fin86 (fun s => fin86 (oph32 s) s.keyLen.value) ∧
  fin86 (Quad.all 0) 0 = 0 ∧
  fin86 ⟨0x1EEF14A7, 0x709C089B, 0x58482592, 0⟩ 12 = 0xBE60D10DEC128BA9E51D9F90693D8CA8

/-! ## The full-hash commands -/

/-- 41_hash32.md section 2 (HASH32): acceptance and each engine step, with the block word read off the key. -/
def Obligations.Hash32EngineSteps : Prop :=
  EncodedAs .hash32 0x00000001 ∧ AcceptsHash .hash32 ∧
  (∀ (s : State) (key : List Byte),
    let e := s.eng
    let h : U32 := e.lanes.q0.extractLsb' 0 32
    let n := key.length
    (InPhase s .hash32 .init key →
      exec .hash32 s = .next { s with eng := { e with
        phase := if n < 4 then .tail else .block
        lanes := { e.lanes with q0 := lowWritten e.lanes.q0 (s.seed.value.extractLsb' 0 32) }
        blk := 0 } }) ∧
    (InPhase s .hash32 .block key → e.blk < n / 4 →
      exec .hash32 s = .next { s with eng := { e with
        phase := if e.blk + 1 = n / 4 then .tail else .block
        lanes := { e.lanes with q0 := lowWritten e.lanes.q0 (mix32 h (keyWord32 key (4 * e.blk))) }
        blk := e.blk + 1 } }) ∧
    (InPhase s .hash32 .tail key →
      exec .hash32 s = .next { s with eng := { e with
        phase := .final
        lanes := { e.lanes with
          q0 := lowWritten e.lanes.q0 (tail32 h (keyWord32 key (4 * (n / 4))) (n % 4)) } } }) ∧
    (InPhase s .hash32 .final key →
      exec .hash32 s = .next (completed s ((fin32 h s.keyLen.value).setWidth 128))))

/-- 42_hash128_x64.md section 2 (HASH128_X64): acceptance and each engine step. -/
def Obligations.Hash128X64EngineSteps : Prop :=
  EncodedAs .hash128X64 0x00000002 ∧ AcceptsHash .hash128X64 ∧
  (∀ (s : State) (key : List Byte),
    let e := s.eng
    let n := key.length
    let lanes (h : U64 × U64) : Quad U64 := ⟨h.1, h.2, e.lanes.q2, e.lanes.q3⟩
    (InPhase s .hash128X64 .init key →
      exec .hash128X64 s = .next { s with eng := { e with
        phase := if n < 16 then .tail else .block
        lanes := lanes (s.seed.value, s.seed.value)
        blk := 0 } }) ∧
    (InPhase s .hash128X64 .block key → e.blk < n / 16 →
      exec .hash128X64 s = .next { s with eng := { e with
        phase := if e.blk + 1 = n / 16 then .tail else .block
        lanes := lanes (mix64 e.lanes.q0 e.lanes.q1 (keyWord64 key (16 * e.blk)) (keyWord64 key (16 * e.blk + 8)))
        blk := e.blk + 1 } }) ∧
    (InPhase s .hash128X64 .tail key →
      exec .hash128X64 s = .next { s with eng := { e with
        phase := .final
        lanes := lanes (tail64 e.lanes.q0 e.lanes.q1 (keyWord64 key (16 * (n / 16)))
          (keyWord64 key (16 * (n / 16) + 8)) (n % 16)) } }) ∧
    (InPhase s .hash128X64 .final key →
      exec .hash128X64 s = .next (completed s (fin64 e.lanes.q0 e.lanes.q1 s.keyLen.value))))

/-- 43_hash128_x86.md section 2 (HASH128_X86): acceptance and each engine step. -/
def Obligations.Hash128X86EngineSteps : Prop :=
  EncodedAs .hash128X86 0x00000003 ∧ AcceptsHash .hash128X86 ∧
  (∀ (s : State) (key : List Byte),
    let e := s.eng
    let n := key.length
    let h : Quad U32 := e.lanes.map fun c => c.extractLsb' 0 32
    let lanes (v : Quad U32) : Quad U64 :=
      ⟨lowWritten e.lanes.q0 v.q0, lowWritten e.lanes.q1 v.q1, lowWritten e.lanes.q2 v.q2,
        lowWritten e.lanes.q3 v.q3⟩
    let words (off : Nat) : Quad U32 :=
      ⟨keyWord32 key off, keyWord32 key (off + 4), keyWord32 key (off + 8), keyWord32 key (off + 12)⟩
    (InPhase s .hash128X86 .init key →
      exec .hash128X86 s = .next { s with eng := { e with
        phase := if n < 16 then .tail else .block
        lanes := lanes (Quad.all (s.seed.value.extractLsb' 0 32))
        blk := 0 } }) ∧
    (InPhase s .hash128X86 .block key → e.blk < n / 16 →
      exec .hash128X86 s = .next { s with eng := { e with
        phase := if e.blk + 1 = n / 16 then .tail else .block
        lanes := lanes (mix86 h (words (16 * e.blk)))
        blk := e.blk + 1 } }) ∧
    (InPhase s .hash128X86 .tail key →
      exec .hash128X86 s = .next { s with eng := { e with
        phase := .final
        lanes := lanes (tail86 h (words (16 * (n / 16))) (n % 16)) } }) ∧
    (InPhase s .hash128X86 .final key →
      exec .hash128X86 s = .next (completed s (fin86 h s.keyLen.value))))

/-- 41_hash32.md section 2, "Result": the engine's run of HASH32 computes `hash32u` of the key and the seed. -/
def Obligations.Hash32Result : Prop := HashResult .hash32 4 fun key seed => (hash32u key seed).setWidth 128

/-- 42_hash128_x64.md section 2, "Result". -/
def Obligations.Hash128X64Result : Prop := HashResult .hash128X64 16 hash128X64

/-- 43_hash128_x86.md section 2, "Result". -/
def Obligations.Hash128X86Result : Prop := HashResult .hash128X86 16 hash128X86

/-! ## Laws of the functions -/

/-- 40_primitives.md section 1 (R130, which the spec derives from R120 to R124): zero is fixed, the scramble and the
finalizers are bijections because each of their steps is, rotations compose. -/
def Obligations.PrimitiveLaws : Prop :=
  (scramble32 0 = 0 ∧ fmix32 0 = 0 ∧ fmix64 0 = 0) ∧
  (Function.Bijective scramble32 ∧ Function.Bijective fmix32 ∧ Function.Bijective fmix64) ∧
  (∀ n, 1 ≤ n → Function.Bijective (fun h : U32 => h ^^^ (h >>> n)) ∧
    Function.Bijective fun h : U64 => h ^^^ (h >>> n)) ∧
  (∀ r, (1 ≤ r ∧ r ≤ 31 → Function.Bijective fun x => rotl32 x r) ∧
    (1 ≤ r ∧ r ≤ 63 → Function.Bijective fun x => rotl64 x r)) ∧
  (∀ c : U32, c.toNat % 2 = 1 → Function.Bijective fun x : U32 => x * c) ∧
  (∀ c : U64, c.toNat % 2 = 1 → Function.Bijective fun x : U64 => x * c) ∧
  (∀ c ∈ [0xcc9e2d51, 0x1b873593, 0x85ebca6b, 0xc2b2ae35, 0xff51afd7ed558ccd, 0xc4ceb9fe1a85ec53], c % 2 = 1) ∧
  (∀ (x : U32) (a b : Nat), 1 ≤ a → a ≤ 31 → 1 ≤ b → b ≤ 31 →
    (a + b ≤ 31 → rotl32 (rotl32 x a) b = rotl32 x (a + b)) ∧ (a + b = 32 → rotl32 (rotl32 x a) b = x)) ∧
  (∀ (x : U64) (a b : Nat), 1 ≤ a → a ≤ 63 → 1 ≤ b → b ≤ 63 →
    (a + b ≤ 63 → rotl64 (rotl64 x a) b = rotl64 x (a + b)) ∧ (a + b = 64 → rotl64 (rotl64 x a) b = x))

/-- 40_primitives.md section 1: bit `i` of `x` becomes bit `(i + r) mod` the width of the rotate. -/
def Obligations.RotateMovesBits : Prop :=
  (∀ (x : U32) (r i : Nat), 1 ≤ r → r ≤ 31 → i < 32 → (rotl32 x r).getLsbD ((i + r) % 32) = x.getLsbD i) ∧
  (∀ (x : U64) (r i : Nat), 1 ≤ r → r ≤ 63 → i < 64 → (rotl64 x r).getLsbD ((i + r) % 64) = x.getLsbD i)

/-- 41_hash32.md section 1 (R161, which the spec derives from R150 to R154): the laws of hash32; (c) is stated of the machine, for two states that differ only in bytes past `n`. -/
def Obligations.Hash32Laws : Prop :=
  (∀ seed : U64, hash32u [] seed = fmix32 (seed.extractLsb' 0 32)) ∧ hash32u [] 0 = 0 ∧
  hash32u [0x00] 0 = fmix32 1 ∧
  (∀ (s : State) (key : List Byte) (m : Memory), InPhase s .hash32 .init key →
    (∀ a, a < key.length → m.read a = s.buf.read a) →
    ∃ t u, engineRun (key.length / 4 + 3) s = .next t ∧
      engineRun (key.length / 4 + 3) { s with buf := m } = .next u ∧ t.res = u.res)

/-- 42_hash128_x64.md section 1 (R194, which the spec derives from R181 to R187): the laws of hash128_x64. -/
def Obligations.Hash128X64Laws : Prop :=
  hash128X64 [] 0 = 0 ∧ ∀ seed : U64, hash128X64 [0x00] seed = hash128X64 [] (seed ^^^ 1)

/-- 43_hash128_x86.md section 1 (R223, which the spec derives from R211 to R217): the laws of hash128_x86. -/
def Obligations.Hash128X86Laws : Prop :=
  hash128X86 [] 0 = 0 ∧
  (∀ (key : List Byte) (seed : U64), hash128X86 key seed = hash128X86 key ((seed.extractLsb' 0 32).setWidth 64)) ∧
  (∀ seed : U32, hash128X86 [0x00] (seed.setWidth 64) = hash128X86 [] ((seed ^^^ 1).setWidth 64)) ∧
  (∀ (key : List Byte) (seed : U64), 1 ≤ key.length → key.length ≤ 4 →
    let d := hash128X86 key seed
    d.extractLsb' 32 32 = d.extractLsb' 64 32 ∧ d.extractLsb' 64 32 = d.extractLsb' 96 32)

/-- 20_memory.md section 4 (R67, which the spec derives from R62): an 8-byte read and two 4-byte reads agree, and a tail read is the full read masked. -/
def Obligations.MixedWidthReads : Prop :=
  ∀ (s : State) (off : Nat),
    (∀ v, s.memRead off 8 = .ok v →
      s.memRead off 4 = .ok ((v.extractLsb' 0 32).setWidth 64) ∧
      s.memRead (off + 4) 4 = .ok ((v.extractLsb' 32 32).setWidth 64)) ∧
    (∀ lo hi, s.memRead off 4 = .ok lo → s.memRead (off + 4) 4 = .ok hi →
      s.memRead off 8 = .ok (lo ||| (hi <<< 32))) ∧
    (∀ w t v, w ≤ 8 → t ≤ w → s.memRead off w = .ok v →
      s.memRead off t = .ok (v &&& BitVec.ofNat 64 (2 ^ (8 * t) - 1)))

/-- 41_hash32.md section 1 (R156): the signed reading of a hash32 digest. -/
def Obligations.SignedReading : Prop :=
  ∀ h : U32,
    (h.toNat < 2 ^ 31 → toSigned32 h = h.toNat) ∧
    (2 ^ 31 ≤ h.toNat → toSigned32 h = (h.toNat : Int) - 2 ^ 32 ∧
      toSigned32 h = -(((h ^^^ 0xFFFFFFFF).toNat : Int) + 1)) ∧
    -(2 ^ 31) ≤ toSigned32 h ∧ toSigned32 h ≤ 2 ^ 31 - 1

/-! ## The whole machine -/

/-- A step runs the decoded command: a host's CMD write runs the meaning of the command its word decodes to, after CMD
took the word (a 64-bit value's low 32 bits, log entry 6); an engine's turn runs the meaning of the accepted command. A
fault becomes the fault record and leaves nothing else (log entry 7). -/
def Obligations.StepRunsDecodedCommand : Prop :=
  ∀ s : State, s.faulted = none →
    let recorded (a : Answer) : Answer := match a with
      | .next t => .next t
      | .fault f => .next { s.popTurn with faulted := some f }
      | .refused r => .refused r
    (∀ (v : U64) (rest : List HostAction) (i : Instr), s.turn = .host → s.env.prog = .wr 0 v :: rest →
      s.status.state ≠ .busy → decode (v.setWidth 32) = .ok i →
      step s = recorded (exec i { s with
        cmd := v.setWidth 32
        env := { s.env with prog := rest, schedule := s.env.schedule.tail } })) ∧
    (s.turn = .engine → s.status.state = .busy →
      step s = recorded (exec s.eng.cmd { s with env := { s.env with schedule := s.env.schedule.tail } }))

/-- The frame of every command (30_encoding.md section 2, "writes"): no command writes CMD, KEY_LEN, SEED, an operand
register or a key byte, and RES changes only in a completion step. -/
def Obligations.CommandFrame : Prop :=
  ∀ (i : Instr) (s t : State), exec i s = .next t →
    t.cfg = s.cfg ∧ t.cmd = s.cmd ∧ t.keyLen = s.keyLen ∧ t.seed = s.seed ∧ t.oph = s.oph ∧ t.opk = s.opk ∧
    (∀ a, t.buf.read a = s.buf.read a) ∧ t.faulted = s.faulted ∧ t.env = s.env ∧
    (t.res ≠ s.res → (s.eng.phase = .exec ∨ s.eng.phase = .final) ∧ t.status = ⟨.done, .noError⟩ ∧ t.res.written = true) ∧
    (s.eng.phase = .init ∨ s.eng.phase = .block ∨ s.eng.phase = .tail → t.status = s.status) ∧
    (s.eng.phase = .idle → t.eng.lanes = s.eng.lanes ∧ t.eng.blk = s.eng.blk)

/-- Every step keeps the invariant of the machine. That CMD stays 0 in IDLE rests on the model's choice to discard the
partial state of a faulting CMD write, whose word R35 stores first (log entry 7, which 60_exceptions.md R247 permits). -/
def Obligations.StepKeepsInvariant : Prop := ∀ s t : State, s.Inv → step s = .next t → t.Inv

/-- 60_exceptions.md section 1 (R244, which the spec derives from R242, R35 and R36): a rejected command changes only
CMD and STATUS, and an accepted command cannot fail later. Each engine step of a running command is a next state, raises
no error, keeps the invariant, and brings the command one step nearer to its end. -/
def Obligations.AcceptedCommandNeverFails : Prop :=
  (∀ (s t : State) (w : U32), s.Inv → s.writeCmd w = .next t → t.status.state = .error →
    t = { s with cmd := w, status := t.status }) ∧
  ∀ s : State, s.Inv → s.status.state = .busy →
    ∃ t, exec s.eng.cmd s = .next t ∧ t.Inv ∧ t.status.state ≠ .error ∧ t.faulted = s.faulted ∧
      t.stepsLeft + 1 = s.stepsLeft

/-- 70_reset_and_hazards.md section 3 (R281, which the spec derives from R36): the engine steps of each command, counted
from the CMD write that is accepted, the first after reset included: BUSY before the last, DONE after it; and a TAIL step
with `tail_sz = 0` changes no lane. -/
def Obligations.EngineStepCounts : Prop :=
  (∀ s t : State, s.eng.phase = .tail → s.keyLen.value.toNat % blockBytes s.eng.cmd = 0 →
    exec s.eng.cmd s = .next t → t.eng.lanes = s.eng.lanes) ∧
  (∀ (i : Instr) (s u : State) (w : U32), s.Inv → decode w = .ok i → s.writeCmd w = .next u →
    u.status.state = .busy →
    let n := s.keyLen.value.toNat
    let count := if i = .hash32 then n / 4 + 3
      else if i = .hash128X64 ∨ i = .hash128X86 then n / 16 + 3
      else 1
    (∀ k, k < count → ∃ t, engineRun k u = .next t ∧ t.status.state = .busy) ∧
    (∃ t, engineRun count u = .next t ∧ t.status = ⟨.done, .noError⟩ ∧ t.res.written = true ∧ t.eng.phase = .idle))

/-- 70_reset_and_hazards.md section 3 (R280): the machine's own steps complete the running command, whatever the host
still has to do. When nothing else is scheduled it takes exactly the engine steps left. After any finite list of host and
engine turns, none of which faults, it takes at most one step more for each turn of the list. What follows the list is
the model's default (log entry 4). -/
def Obligations.EngineCompletesUnderFairSchedule : Prop :=
  (∀ s : State, s.Inv → s.faulted = none → s.status.state = .busy → s.env.schedule = [] →
    ∃ t, Host.Core.run core s.stepsLeft s = .next t ∧ t.status = ⟨.done, .noError⟩ ∧ t.faulted = none ∧ t.env = s.env) ∧
  (∀ s : State, s.Inv → s.status.state = .busy → Agent.platform ∉ s.env.schedule →
    FaultFreeFor s.env.schedule.length s →
    ∃ k t, s.stepsLeft ≤ k ∧ k ≤ s.env.schedule.length + s.stepsLeft ∧ Host.Core.run core k s = .next t ∧
      t.status = ⟨.done, .noError⟩ ∧ t.res.written = true ∧ t.faulted = none ∧ t.cmd = s.cmd ∧ t.buf = s.buf)

/-- 10_state.md section 3 (R37, R38): the result of a command depends only on what it reads: two states that agree on
that give the same RES, whatever their lanes, block counters, old results and other registers. -/
def Obligations.ResultDependsOnlyOnInputs : Prop :=
  ∀ (i : Instr) (s s' u u' : State), AgreeOnInputs i s s' →
    s.eng.phase = .idle → s'.eng.phase = .idle →
    exec i s = .next u → u.status.state = .busy → exec i s' = .next u' → u'.status.state = .busy →
    ∃ t t', engineRun u.stepsLeft u = .next t ∧ engineRun u'.stepsLeft u' = .next t' ∧
      t.status.state = .done ∧ t'.status.state = .done ∧ t.res = t'.res

/-- 70_reset_and_hazards.md section 2 (R274, R279): while a command runs, no step but reset changes what it reads. -/
def Obligations.InputsStableWhileBusy : Prop :=
  ∀ s t : State, s.Inv → s.status.state = .busy → s.turn ≠ .platform → step s = .next t →
    t.cmd = s.cmd ∧ t.keyLen = s.keyLen ∧ t.seed = s.seed ∧ t.oph = s.oph ∧ t.opk = s.opk ∧ t.buf = s.buf ∧
    t.cfg = s.cfg ∧ (t.status.state = .busy → t.eng.cmd = s.eng.cmd)

/-- R245: an error persists until the next CMD write, which sets BUSY or a new error with its own code, or reset. -/
def Obligations.ErrorPersists : Prop :=
  (∀ s t : State, s.Inv → s.status.state = .error → step s = .next t →
    t.status = s.status ∨ (s.turn = .platform ∧ t.status = ⟨.idle, .noError⟩) ∨
      (s.turn = .host ∧ (∃ v rest, s.env.prog = .wr 0 v :: rest) ∧
        (t.status.state = .error ∨ t.status = ⟨.busy, .noError⟩))) ∧
  (∀ (s t : State) (w : U32), s.Inv → s.status.state = .error → s.writeCmd w = .next t →
    t.status = ⟨.busy, .noError⟩ ∨
      (decodeCheck w ≠ .noError ∧ t.status = ⟨.error, decodeCheck w⟩) ∨
      (decodeCheck w = .noError ∧ t.status = ⟨.error, .lenRange⟩ ∧
        s.cfg.bufBytes.toNat < s.keyLen.value.toNat)) ∧
  (∀ (s : State) (w : U32), s.Inv → s.status.state = .error → s.writeCmd w ≠ .fault .writeWhileBusy)

/-- 10_state.md section 1 (R24): which turns change STATE, and to what. That a 64-bit value's low 32 bits are the CMD
word is the model's reading (log entry 6). -/
def Obligations.StateTransitions : Prop :=
  ∀ s t : State, s.Inv → step s = .next t → t.status.state ≠ s.status.state →
    (s.turn = .platform ∧ t.status.state = .idle) ∨
    (s.turn = .host ∧ s.status.state ≠ .busy ∧ (t.status.state = .busy ∨ t.status.state = .error) ∧
      ∃ v rest, s.env.prog = .wr 0 v :: rest ∧ t.cmd = v.setWidth 32) ∨
    (s.turn = .engine ∧ s.status.state = .busy ∧ t.status.state = .done ∧ t.res.written = true)

/-- 60_exceptions.md section 2 (R247): in `faulted` no host or engine step is enabled; a fault has no effect but the
record (the model's choice, which R247 permits, log entry 7); only reset clears it. -/
def Obligations.FaultedIsStuck : Prop :=
  (∀ (s : State) (f : Fault), s.faulted = some f → s.turn ≠ .platform → step s = .fault f) ∧
  (∀ (s t : State) (f : Fault), s.faulted = none → step s = .next t → t.faulted = some f →
    t = { s with
      faulted := some f
      env := { s.env with schedule := s.env.schedule.tail } }) ∧
  (∀ (s t : State) (f : Fault), s.faulted = some f → step s = .next t → s.turn = .platform ∧ t.faulted = none)

/-- 30_encoding.md section 4 (R101, R102): WAIT polls STATUS until it is not BUSY; MOV reads, then writes the field, and
a MOV whose read faults leaves the fault record. How the next poll and MOV's write stand on the host's list (log
entry 4), that the values join what the host has seen (log entry 5), what a field that reaches past a 32-bit source
holds (log entry 14) and that a fault leaves nothing else, the action on the list (log entry 7), are the model's
choices. -/
def Obligations.WaitAndMov : Prop :=
  ∀ (s : State) (rest : List HostAction), s.faulted = none → s.turn = .host →
    (s.env.prog = .wait :: rest →
      step s = .next { s with env := ⟨if s.status.state = .busy then .wait :: rest else rest, s.env.schedule.tail,
        ⟨.reg 1, s.status.word.setWidth 64⟩ :: s.env.reads⟩ }) ∧
    (∀ dst src hi lo v, s.env.prog = .mov dst src hi lo :: rest → lo ≤ hi → hi < 64 → s.hostRead src = .ok v →
      step s = .next { s with env := ⟨.wr dst (v <<< (63 - hi) >>> (63 - hi) >>> lo) :: rest, s.env.schedule.tail,
        ⟨.reg src, v⟩ :: s.env.reads⟩ }) ∧
    (∀ dst src hi lo f, s.env.prog = .mov dst src hi lo :: rest → s.hostRead src = .error f →
      step s = .next { s with faulted := some f, env := { s.env with schedule := s.env.schedule.tail } })

/-- The rest of the host's actions (30_encoding.md section 4; 20_memory.md section 3): each reads or writes as its
access says and is taken off the list, and a read joins what the host has seen (a byte read too, log entry 5); an access
that faults leaves the fault record only, so its partial state is discarded and the action stays on the list (the model's
choice, log entry 7). -/
def Obligations.HostActionsStep : Prop :=
  ∀ (s : State) (rest : List HostAction), s.faulted = none → s.turn = .host →
    let u : State := { s with env := ⟨rest, s.env.schedule.tail, s.env.reads⟩ }
    let seen (source : Source) (v : U64) : State :=
      { s with env := ⟨rest, s.env.schedule.tail, ⟨source, v⟩ :: s.env.reads⟩ }
    let stuck (f : Fault) : State := { s with faulted := some f, env := { s.env with schedule := s.env.schedule.tail } }
    (∀ n v, s.env.prog = .rd n :: rest → s.hostRead n = .ok v → step s = .next (seen (.reg n) v)) ∧
    (∀ n f, s.env.prog = .rd n :: rest → s.hostRead n = .error f → step s = .next (stuck f)) ∧
    (∀ off b, s.env.prog = .rdb off :: rest → s.readByte off = .ok b →
      step s = .next (seen (.byte off) (b.setWidth 64))) ∧
    (∀ off f, s.env.prog = .rdb off :: rest → s.readByte off = .error f → step s = .next (stuck f)) ∧
    (∀ off b, s.env.prog = .wrb off b :: rest → off < s.cfg.bufBytes.toNat → s.status.state ≠ .busy →
      step s = .next { u with buf := s.buf.write off b }) ∧
    (∀ off b, s.env.prog = .wrb off b :: rest → s.cfg.bufBytes.toNat ≤ off → step s = .next (stuck .bufferRange)) ∧
    (∀ off b, s.env.prog = .wrb off b :: rest → off < s.cfg.bufBytes.toNat → s.status.state = .busy →
      step s = .next (stuck .writeWhileBusy)) ∧
    (∀ n v, s.env.prog = .wr n v :: rest →
      step s = match u.hostWrite n v with
        | .next t => .next t
        | .fault f => .next (stuck f)
        | .refused r => .refused r) ∧
    (s.env.prog = [] → step s = .next { s with env := { s.env with schedule := s.env.schedule.tail } })

/-- 70_reset_and_hazards.md section 1 (R272, R275): the boot sequence is a well-formed program. For every key that fits
the buffer, every seed and every full hash, the host that writes the key, KEY_LEN and SEED, writes CMD, waits, and then
reads STATUS and RES meets no fault under any schedule (a list of host and engine turns, then the model's default, log
entry 4). -/
def Obligations.BootSequenceNeverFaults : Prop :=
  ∀ (cfg : Config) (key : List Byte) (seed : U64) (i : Instr), i.fullHash = true →
    key.length ≤ cfg.bufBytes.toNat →
    WellFormedProgram cfg (asmKey key ++ [.wr 3 seed] ++ asmRun i ++ [.rd 1, .rd 12, .rd 13])
end

