-- ==== Sys2Proof/Laws/State.lean ====
section
/-! SUPPORT. What each state update leaves in each field: one equation per update and field, all true by definition, so
that no proof unfolds an update. -/

namespace Sys2Proof.Machine

variable (s : State)

/-! ### State.raiseError -/

@[simp] theorem State.raiseError_cfg (c : ErrCode) : (s.raiseError c).cfg = s.cfg := rfl
@[simp] theorem State.raiseError_cmd (c : ErrCode) : (s.raiseError c).cmd = s.cmd := rfl
@[simp] theorem State.raiseError_status (c : ErrCode) : (s.raiseError c).status = ⟨.error, c⟩ := rfl
@[simp] theorem State.raiseError_keyLen (c : ErrCode) : (s.raiseError c).keyLen = s.keyLen := rfl
@[simp] theorem State.raiseError_seed (c : ErrCode) : (s.raiseError c).seed = s.seed := rfl
@[simp] theorem State.raiseError_oph (c : ErrCode) : (s.raiseError c).oph = s.oph := rfl
@[simp] theorem State.raiseError_opk (c : ErrCode) : (s.raiseError c).opk = s.opk := rfl
@[simp] theorem State.raiseError_res (c : ErrCode) : (s.raiseError c).res = s.res := rfl
@[simp] theorem State.raiseError_buf (c : ErrCode) : (s.raiseError c).buf = s.buf := rfl
@[simp] theorem State.raiseError_eng (c : ErrCode) : (s.raiseError c).eng = s.eng := rfl
@[simp] theorem State.raiseError_faulted (c : ErrCode) : (s.raiseError c).faulted = s.faulted := rfl
@[simp] theorem State.raiseError_env (c : ErrCode) : (s.raiseError c).env = s.env := rfl

/-! ### State.enterFaulted -/

@[simp] theorem State.enterFaulted_cfg (f : Fault) : (s.enterFaulted f).cfg = s.cfg := rfl
@[simp] theorem State.enterFaulted_cmd (f : Fault) : (s.enterFaulted f).cmd = s.cmd := rfl
@[simp] theorem State.enterFaulted_status (f : Fault) : (s.enterFaulted f).status = s.status := rfl
@[simp] theorem State.enterFaulted_keyLen (f : Fault) : (s.enterFaulted f).keyLen = s.keyLen := rfl
@[simp] theorem State.enterFaulted_seed (f : Fault) : (s.enterFaulted f).seed = s.seed := rfl
@[simp] theorem State.enterFaulted_oph (f : Fault) : (s.enterFaulted f).oph = s.oph := rfl
@[simp] theorem State.enterFaulted_opk (f : Fault) : (s.enterFaulted f).opk = s.opk := rfl
@[simp] theorem State.enterFaulted_res (f : Fault) : (s.enterFaulted f).res = s.res := rfl
@[simp] theorem State.enterFaulted_buf (f : Fault) : (s.enterFaulted f).buf = s.buf := rfl
@[simp] theorem State.enterFaulted_eng (f : Fault) : (s.enterFaulted f).eng = s.eng := rfl
@[simp] theorem State.enterFaulted_faulted (f : Fault) : (s.enterFaulted f).faulted = some f := rfl
@[simp] theorem State.enterFaulted_env (f : Fault) : (s.enterFaulted f).env = s.env := rfl

/-! ### State.start -/

@[simp] theorem State.start_cfg (i : Instr) (p : Phase) : (s.start i p).cfg = s.cfg := rfl
@[simp] theorem State.start_cmd (i : Instr) (p : Phase) : (s.start i p).cmd = s.cmd := rfl
@[simp] theorem State.start_status (i : Instr) (p : Phase) : (s.start i p).status = ⟨.busy, .noError⟩ := rfl
@[simp] theorem State.start_keyLen (i : Instr) (p : Phase) : (s.start i p).keyLen = s.keyLen := rfl
@[simp] theorem State.start_seed (i : Instr) (p : Phase) : (s.start i p).seed = s.seed := rfl
@[simp] theorem State.start_oph (i : Instr) (p : Phase) : (s.start i p).oph = s.oph := rfl
@[simp] theorem State.start_opk (i : Instr) (p : Phase) : (s.start i p).opk = s.opk := rfl
@[simp] theorem State.start_res (i : Instr) (p : Phase) : (s.start i p).res = s.res := rfl
@[simp] theorem State.start_buf (i : Instr) (p : Phase) : (s.start i p).buf = s.buf := rfl
@[simp] theorem State.start_eng (i : Instr) (p : Phase) : (s.start i p).eng = ⟨p, i, s.eng.lanes, s.eng.blk⟩ := rfl
@[simp] theorem State.start_faulted (i : Instr) (p : Phase) : (s.start i p).faulted = s.faulted := rfl
@[simp] theorem State.start_env (i : Instr) (p : Phase) : (s.start i p).env = s.env := rfl

/-! ### State.complete -/

@[simp] theorem State.complete_cfg (v : U128) : (s.complete v).cfg = s.cfg := rfl
@[simp] theorem State.complete_cmd (v : U128) : (s.complete v).cmd = s.cmd := rfl
@[simp] theorem State.complete_status (v : U128) : (s.complete v).status = ⟨.done, .noError⟩ := rfl
@[simp] theorem State.complete_keyLen (v : U128) : (s.complete v).keyLen = s.keyLen := rfl
@[simp] theorem State.complete_seed (v : U128) : (s.complete v).seed = s.seed := rfl
@[simp] theorem State.complete_oph (v : U128) : (s.complete v).oph = s.oph := rfl
@[simp] theorem State.complete_opk (v : U128) : (s.complete v).opk = s.opk := rfl
@[simp] theorem State.complete_res (v : U128) : (s.complete v).res = ⟨v, true⟩ := rfl
@[simp] theorem State.complete_buf (v : U128) : (s.complete v).buf = s.buf := rfl
@[simp] theorem State.complete_eng (v : U128) : (s.complete v).eng = ⟨.idle, s.eng.cmd, s.eng.lanes, s.eng.blk⟩ := rfl
@[simp] theorem State.complete_faulted (v : U128) : (s.complete v).faulted = s.faulted := rfl
@[simp] theorem State.complete_env (v : U128) : (s.complete v).env = s.env := rfl

/-! ### State.stepInit -/

@[simp] theorem State.stepInit_cfg (bs : Nat) (l : Quad U64) : (s.stepInit bs l).cfg = s.cfg := rfl
@[simp] theorem State.stepInit_cmd (bs : Nat) (l : Quad U64) : (s.stepInit bs l).cmd = s.cmd := rfl
@[simp] theorem State.stepInit_status (bs : Nat) (l : Quad U64) : (s.stepInit bs l).status = s.status := rfl
@[simp] theorem State.stepInit_keyLen (bs : Nat) (l : Quad U64) : (s.stepInit bs l).keyLen = s.keyLen := rfl
@[simp] theorem State.stepInit_seed (bs : Nat) (l : Quad U64) : (s.stepInit bs l).seed = s.seed := rfl
@[simp] theorem State.stepInit_oph (bs : Nat) (l : Quad U64) : (s.stepInit bs l).oph = s.oph := rfl
@[simp] theorem State.stepInit_opk (bs : Nat) (l : Quad U64) : (s.stepInit bs l).opk = s.opk := rfl
@[simp] theorem State.stepInit_res (bs : Nat) (l : Quad U64) : (s.stepInit bs l).res = s.res := rfl
@[simp] theorem State.stepInit_buf (bs : Nat) (l : Quad U64) : (s.stepInit bs l).buf = s.buf := rfl
@[simp] theorem State.stepInit_eng (bs : Nat) (l : Quad U64) : (s.stepInit bs l).eng = ⟨if 0 < s.nBlocks bs then .block else .tail, s.eng.cmd, l, 0⟩ := rfl
@[simp] theorem State.stepInit_faulted (bs : Nat) (l : Quad U64) : (s.stepInit bs l).faulted = s.faulted := rfl
@[simp] theorem State.stepInit_env (bs : Nat) (l : Quad U64) : (s.stepInit bs l).env = s.env := rfl

/-! ### State.stepBlock -/

@[simp] theorem State.stepBlock_cfg (bs : Nat) (l : Quad U64) : (s.stepBlock bs l).cfg = s.cfg := rfl
@[simp] theorem State.stepBlock_cmd (bs : Nat) (l : Quad U64) : (s.stepBlock bs l).cmd = s.cmd := rfl
@[simp] theorem State.stepBlock_status (bs : Nat) (l : Quad U64) : (s.stepBlock bs l).status = s.status := rfl
@[simp] theorem State.stepBlock_keyLen (bs : Nat) (l : Quad U64) : (s.stepBlock bs l).keyLen = s.keyLen := rfl
@[simp] theorem State.stepBlock_seed (bs : Nat) (l : Quad U64) : (s.stepBlock bs l).seed = s.seed := rfl
@[simp] theorem State.stepBlock_oph (bs : Nat) (l : Quad U64) : (s.stepBlock bs l).oph = s.oph := rfl
@[simp] theorem State.stepBlock_opk (bs : Nat) (l : Quad U64) : (s.stepBlock bs l).opk = s.opk := rfl
@[simp] theorem State.stepBlock_res (bs : Nat) (l : Quad U64) : (s.stepBlock bs l).res = s.res := rfl
@[simp] theorem State.stepBlock_buf (bs : Nat) (l : Quad U64) : (s.stepBlock bs l).buf = s.buf := rfl
@[simp] theorem State.stepBlock_eng (bs : Nat) (l : Quad U64) : (s.stepBlock bs l).eng = ⟨if s.eng.blk + 1 = s.nBlocks bs then .tail else .block, s.eng.cmd, l, s.eng.blk + 1⟩ := rfl
@[simp] theorem State.stepBlock_faulted (bs : Nat) (l : Quad U64) : (s.stepBlock bs l).faulted = s.faulted := rfl
@[simp] theorem State.stepBlock_env (bs : Nat) (l : Quad U64) : (s.stepBlock bs l).env = s.env := rfl

/-! ### State.stepTail -/

@[simp] theorem State.stepTail_cfg (l : Quad U64) : (s.stepTail l).cfg = s.cfg := rfl
@[simp] theorem State.stepTail_cmd (l : Quad U64) : (s.stepTail l).cmd = s.cmd := rfl
@[simp] theorem State.stepTail_status (l : Quad U64) : (s.stepTail l).status = s.status := rfl
@[simp] theorem State.stepTail_keyLen (l : Quad U64) : (s.stepTail l).keyLen = s.keyLen := rfl
@[simp] theorem State.stepTail_seed (l : Quad U64) : (s.stepTail l).seed = s.seed := rfl
@[simp] theorem State.stepTail_oph (l : Quad U64) : (s.stepTail l).oph = s.oph := rfl
@[simp] theorem State.stepTail_opk (l : Quad U64) : (s.stepTail l).opk = s.opk := rfl
@[simp] theorem State.stepTail_res (l : Quad U64) : (s.stepTail l).res = s.res := rfl
@[simp] theorem State.stepTail_buf (l : Quad U64) : (s.stepTail l).buf = s.buf := rfl
@[simp] theorem State.stepTail_eng (l : Quad U64) : (s.stepTail l).eng = ⟨.final, s.eng.cmd, l, s.eng.blk⟩ := rfl
@[simp] theorem State.stepTail_faulted (l : Quad U64) : (s.stepTail l).faulted = s.faulted := rfl
@[simp] theorem State.stepTail_env (l : Quad U64) : (s.stepTail l).env = s.env := rfl

/-! ### State.setByte -/

@[simp] theorem State.setByte_cfg (off : Nat) (b : Byte) : (s.setByte off b).cfg = s.cfg := rfl
@[simp] theorem State.setByte_cmd (off : Nat) (b : Byte) : (s.setByte off b).cmd = s.cmd := rfl
@[simp] theorem State.setByte_status (off : Nat) (b : Byte) : (s.setByte off b).status = s.status := rfl
@[simp] theorem State.setByte_keyLen (off : Nat) (b : Byte) : (s.setByte off b).keyLen = s.keyLen := rfl
@[simp] theorem State.setByte_seed (off : Nat) (b : Byte) : (s.setByte off b).seed = s.seed := rfl
@[simp] theorem State.setByte_oph (off : Nat) (b : Byte) : (s.setByte off b).oph = s.oph := rfl
@[simp] theorem State.setByte_opk (off : Nat) (b : Byte) : (s.setByte off b).opk = s.opk := rfl
@[simp] theorem State.setByte_res (off : Nat) (b : Byte) : (s.setByte off b).res = s.res := rfl
@[simp] theorem State.setByte_buf (off : Nat) (b : Byte) : (s.setByte off b).buf = s.buf.write off b := rfl
@[simp] theorem State.setByte_eng (off : Nat) (b : Byte) : (s.setByte off b).eng = s.eng := rfl
@[simp] theorem State.setByte_faulted (off : Nat) (b : Byte) : (s.setByte off b).faulted = s.faulted := rfl
@[simp] theorem State.setByte_env (off : Nat) (b : Byte) : (s.setByte off b).env = s.env := rfl

/-! ### State.observe -/

@[simp] theorem State.observe_cfg (src : Source) (v : U64) : (s.observe src v).cfg = s.cfg := rfl
@[simp] theorem State.observe_cmd (src : Source) (v : U64) : (s.observe src v).cmd = s.cmd := rfl
@[simp] theorem State.observe_status (src : Source) (v : U64) : (s.observe src v).status = s.status := rfl
@[simp] theorem State.observe_keyLen (src : Source) (v : U64) : (s.observe src v).keyLen = s.keyLen := rfl
@[simp] theorem State.observe_seed (src : Source) (v : U64) : (s.observe src v).seed = s.seed := rfl
@[simp] theorem State.observe_oph (src : Source) (v : U64) : (s.observe src v).oph = s.oph := rfl
@[simp] theorem State.observe_opk (src : Source) (v : U64) : (s.observe src v).opk = s.opk := rfl
@[simp] theorem State.observe_res (src : Source) (v : U64) : (s.observe src v).res = s.res := rfl
@[simp] theorem State.observe_buf (src : Source) (v : U64) : (s.observe src v).buf = s.buf := rfl
@[simp] theorem State.observe_eng (src : Source) (v : U64) : (s.observe src v).eng = s.eng := rfl
@[simp] theorem State.observe_faulted (src : Source) (v : U64) : (s.observe src v).faulted = s.faulted := rfl
@[simp] theorem State.observe_env (src : Source) (v : U64) : (s.observe src v).env = ⟨s.env.prog, s.env.schedule, ⟨src, v⟩ :: s.env.reads⟩ := rfl

/-! ### State.pushAction -/

@[simp] theorem State.pushAction_cfg (a : HostAction) : (s.pushAction a).cfg = s.cfg := rfl
@[simp] theorem State.pushAction_cmd (a : HostAction) : (s.pushAction a).cmd = s.cmd := rfl
@[simp] theorem State.pushAction_status (a : HostAction) : (s.pushAction a).status = s.status := rfl
@[simp] theorem State.pushAction_keyLen (a : HostAction) : (s.pushAction a).keyLen = s.keyLen := rfl
@[simp] theorem State.pushAction_seed (a : HostAction) : (s.pushAction a).seed = s.seed := rfl
@[simp] theorem State.pushAction_oph (a : HostAction) : (s.pushAction a).oph = s.oph := rfl
@[simp] theorem State.pushAction_opk (a : HostAction) : (s.pushAction a).opk = s.opk := rfl
@[simp] theorem State.pushAction_res (a : HostAction) : (s.pushAction a).res = s.res := rfl
@[simp] theorem State.pushAction_buf (a : HostAction) : (s.pushAction a).buf = s.buf := rfl
@[simp] theorem State.pushAction_eng (a : HostAction) : (s.pushAction a).eng = s.eng := rfl
@[simp] theorem State.pushAction_faulted (a : HostAction) : (s.pushAction a).faulted = s.faulted := rfl
@[simp] theorem State.pushAction_env (a : HostAction) : (s.pushAction a).env = ⟨a :: s.env.prog, s.env.schedule, s.env.reads⟩ := rfl

/-! ### State.popAction -/

@[simp] theorem State.popAction_cfg : (s.popAction).cfg = s.cfg := rfl
@[simp] theorem State.popAction_cmd : (s.popAction).cmd = s.cmd := rfl
@[simp] theorem State.popAction_status : (s.popAction).status = s.status := rfl
@[simp] theorem State.popAction_keyLen : (s.popAction).keyLen = s.keyLen := rfl
@[simp] theorem State.popAction_seed : (s.popAction).seed = s.seed := rfl
@[simp] theorem State.popAction_oph : (s.popAction).oph = s.oph := rfl
@[simp] theorem State.popAction_opk : (s.popAction).opk = s.opk := rfl
@[simp] theorem State.popAction_res : (s.popAction).res = s.res := rfl
@[simp] theorem State.popAction_buf : (s.popAction).buf = s.buf := rfl
@[simp] theorem State.popAction_eng : (s.popAction).eng = s.eng := rfl
@[simp] theorem State.popAction_faulted : (s.popAction).faulted = s.faulted := rfl
@[simp] theorem State.popAction_env : (s.popAction).env = ⟨s.env.prog.tail, s.env.schedule, s.env.reads⟩ := rfl

/-! ### State.popTurn -/

@[simp] theorem State.popTurn_cfg : (s.popTurn).cfg = s.cfg := rfl
@[simp] theorem State.popTurn_cmd : (s.popTurn).cmd = s.cmd := rfl
@[simp] theorem State.popTurn_status : (s.popTurn).status = s.status := rfl
@[simp] theorem State.popTurn_keyLen : (s.popTurn).keyLen = s.keyLen := rfl
@[simp] theorem State.popTurn_seed : (s.popTurn).seed = s.seed := rfl
@[simp] theorem State.popTurn_oph : (s.popTurn).oph = s.oph := rfl
@[simp] theorem State.popTurn_opk : (s.popTurn).opk = s.opk := rfl
@[simp] theorem State.popTurn_res : (s.popTurn).res = s.res := rfl
@[simp] theorem State.popTurn_buf : (s.popTurn).buf = s.buf := rfl
@[simp] theorem State.popTurn_eng : (s.popTurn).eng = s.eng := rfl
@[simp] theorem State.popTurn_faulted : (s.popTurn).faulted = s.faulted := rfl
@[simp] theorem State.popTurn_env : (s.popTurn).env = ⟨s.env.prog, s.env.schedule.tail, s.env.reads⟩ := rfl

/-! ### State.setReg -/

@[simp] theorem State.setReg_cfg (r : Reg) (v : U64) : (s.setReg r v).cfg = s.cfg := by cases r <;> rfl
@[simp] theorem State.setReg_cmd (r : Reg) (v : U64) : (s.setReg r v).cmd = s.cmd := by cases r <;> rfl
@[simp] theorem State.setReg_status (r : Reg) (v : U64) : (s.setReg r v).status = s.status := by cases r <;> rfl
@[simp] theorem State.setReg_res (r : Reg) (v : U64) : (s.setReg r v).res = s.res := by cases r <;> rfl
@[simp] theorem State.setReg_buf (r : Reg) (v : U64) : (s.setReg r v).buf = s.buf := by cases r <;> rfl
@[simp] theorem State.setReg_eng (r : Reg) (v : U64) : (s.setReg r v).eng = s.eng := by cases r <;> rfl
@[simp] theorem State.setReg_faulted (r : Reg) (v : U64) : (s.setReg r v).faulted = s.faulted := by cases r <;> rfl
@[simp] theorem State.setReg_env (r : Reg) (v : U64) : (s.setReg r v).env = s.env := by cases r <;> rfl

/-! ### State.resetBlock -/

@[simp] theorem State.resetBlock_cfg : s.resetBlock.cfg = s.cfg := rfl
@[simp] theorem State.resetBlock_cmd : s.resetBlock.cmd = State.reset.cmd := rfl
@[simp] theorem State.resetBlock_status : s.resetBlock.status = State.reset.status := rfl
@[simp] theorem State.resetBlock_keyLen : s.resetBlock.keyLen = State.reset.keyLen := rfl
@[simp] theorem State.resetBlock_seed : s.resetBlock.seed = State.reset.seed := rfl
@[simp] theorem State.resetBlock_oph : s.resetBlock.oph = State.reset.oph := rfl
@[simp] theorem State.resetBlock_opk : s.resetBlock.opk = State.reset.opk := rfl
@[simp] theorem State.resetBlock_res : s.resetBlock.res = State.reset.res := rfl
@[simp] theorem State.resetBlock_buf : s.resetBlock.buf = State.reset.buf := rfl
@[simp] theorem State.resetBlock_eng : s.resetBlock.eng = State.reset.eng := rfl
@[simp] theorem State.resetBlock_faulted : s.resetBlock.faulted = State.reset.faulted := rfl
@[simp] theorem State.resetBlock_env : s.resetBlock.env = s.env := rfl

/-! ### What the accessors read after an update -/

@[simp] theorem State.popTurn_busy : s.popTurn.busy = s.busy := rfl
@[simp] theorem State.popTurn_written : s.popTurn.written = s.written := by funext r; cases r <;> rfl
@[simp] theorem State.popTurn_value : s.popTurn.value = s.value := by funext r; cases r <;> rfl
@[simp] theorem State.popTurn_keyLength : s.popTurn.keyLength = s.keyLength := rfl

@[simp] theorem State.popAction_busy : s.popAction.busy = s.busy := rfl
@[simp] theorem State.popAction_written : s.popAction.written = s.written := by funext r; cases r <;> rfl
@[simp] theorem State.popAction_value : s.popAction.value = s.value := by funext r; cases r <;> rfl
@[simp] theorem State.popAction_keyLength : s.popAction.keyLength = s.keyLength := rfl

theorem State.busy_iff {t : State} : t.busy = true ↔ t.status.state = .busy := by simp [State.busy]

theorem State.not_busy_iff {t : State} : t.busy = false ↔ t.status.state ≠ .busy := by simp [State.busy]

theorem Quad.get_set_same {α : Type} (q : Quad α) (j : Fin 4) (v : α) : (q.set j v).get j = v := by
  fin_cases j <;> rfl

theorem Quad.get_set_other {α : Type} (q : Quad α) (j k : Fin 4) (v : α) (h : k ≠ j) :
    (q.set j v).get k = q.get k := by
  fin_cases j <;> fin_cases k <;> first | rfl | exact absurd rfl h

end Sys2Proof.Machine
end

