-- ==== Sys2Proof/Laws/Memory.lean ====
section
/-! SUPPORT. The laws of the key buffer: a write is read back and touches no other byte, every operation keeps the
canonical form, and what the engine's reads return. -/

namespace Sys2Proof.Machine

/-! ## Read after write -/

@[simp] theorem Memory.read_nil (a : Nat) : Memory.read [] a = none := rfl

@[simp] theorem Memory.read_write_same (m : Memory) (off : Nat) (v : Byte) : (m.write off v).read off = some v := by
  induction m with
  | nil => simp [Memory.write, Memory.read]
  | cons c m ih =>
    obtain ⟨a, b⟩ := c
    by_cases h₁ : off < a
    · simp [Memory.write, Memory.read, h₁]
    · by_cases h₂ : off = a
      · simp [Memory.write, Memory.read, h₂]
      · simp [Memory.write, Memory.read, h₁, h₂, ih]

theorem Memory.read_write_other (m : Memory) {off a : Nat} (v : Byte) (h : a ≠ off) :
    (m.write off v).read a = m.read a := by
  induction m with
  | nil => simp [Memory.write, Memory.read, h, Memory.unlisted]
  | cons c m ih =>
    obtain ⟨x, b⟩ := c
    by_cases h₁ : off < x
    · simp [Memory.write, Memory.read, h₁, h]
    · by_cases h₂ : off = x
      · subst h₂
        simp [Memory.write, Memory.read, h]
      · simp [Memory.write, Memory.read, h₁, h₂, ih]

/-! ## The canonical form -/

theorem Memory.above_write {m : Memory} {lo off : Nat} (v : Byte) (hm : Memory.above lo m = true) (h : lo < off) :
    Memory.above lo (m.write off v) = true := by
  induction m with
  | nil => simpa [Memory.write, Memory.above] using h
  | cons c m ih =>
    obtain ⟨a, b⟩ := c
    simp only [Memory.above, List.all_cons, Bool.and_eq_true, decide_eq_true_eq] at hm ih
    simp only [Memory.write]
    split_ifs <;> simp only [Memory.above, List.all_cons, Bool.and_eq_true, decide_eq_true_eq]
    · exact ⟨h, hm⟩
    · exact hm
    · exact ⟨hm.1, ih hm.2⟩

theorem Memory.above_of_lt {m : Memory} {lo hi : Nat} (hm : Memory.above hi m = true) (h : lo < hi) :
    Memory.above lo m = true := by
  simp only [Memory.above, List.all_eq_true, decide_eq_true_eq] at hm ⊢
  exact fun c hc => lt_trans h (hm c hc)

/-- A write keeps the canonical form. -/
theorem Memory.wf_write {m : Memory} (off : Nat) (v : Byte) (hm : Memory.wf m = true) :
    Memory.wf (m.write off v) = true := by
  induction m with
  | nil => simp [Memory.write, Memory.wf, Memory.above]
  | cons c m ih =>
    obtain ⟨a, b⟩ := c
    simp only [Memory.wf, Bool.and_eq_true] at hm
    simp only [Memory.write]
    split_ifs with h₁ h₂
    · simp only [Memory.wf, Bool.and_eq_true, Memory.above, List.all_cons, decide_eq_true_eq]
      exact ⟨⟨h₁, Memory.above_of_lt hm.1 h₁⟩, hm⟩
    · simpa only [Memory.wf, Bool.and_eq_true] using hm
    · simp only [Memory.wf, Bool.and_eq_true]
      exact ⟨Memory.above_write v hm.1 (by omega), ih hm.2⟩

/-- A write below the bound keeps every offset below it. -/
theorem Memory.within_write {m : Memory} {bound off : Nat} (v : Byte) (hm : Memory.within bound m = true)
    (h : off < bound) : Memory.within bound (m.write off v) = true := by
  induction m with
  | nil => simpa [Memory.write, Memory.within] using h
  | cons c m ih =>
    obtain ⟨a, b⟩ := c
    simp only [Memory.within, List.all_cons, Bool.and_eq_true, decide_eq_true_eq] at hm ih
    simp only [Memory.write]
    split_ifs <;> simp only [Memory.within, List.all_cons, Bool.and_eq_true, decide_eq_true_eq]
    · exact ⟨h, hm⟩
    · exact hm
    · exact ⟨hm.1, ih hm.2⟩

/-- Reset's memory has the canonical form. -/
theorem reset_buf_wf : Memory.wf State.reset.buf = true := rfl

/-! ## What the state reads -/

theorem State.readByte_eq_ok {s : State} {off : Nat} {b : Byte} :
    s.readByte off = .ok b ↔ off < s.cfg.bufBytes.toNat ∧ s.buf.read off = some b := by
  unfold State.readByte
  split_ifs with h
  · simp; omega
  · cases s.buf.read off with
    | none => simp
    | some c => simp; omega

/-- Every byte of the key is written exactly when each offset below the length reads. -/
theorem Memory.hasBytes_iff {m : Memory} {n : Nat} : m.hasBytes n = true ↔ ∀ a, a < n → m.read a ≠ none := by
  induction n with
  | zero => simp [Memory.hasBytes]
  | succ n ih =>
    simp only [Memory.hasBytes, Bool.and_eq_true, ih, Option.isSome_iff_ne_none]
    constructor
    · rintro ⟨h₁, h₂⟩ a ha
      rcases Nat.lt_succ_iff_lt_or_eq.mp ha with h | rfl
      · exact h₁ a h
      · exact h₂
    · exact fun h => ⟨fun a ha => h a (by omega), h n (by omega)⟩

theorem State.keyWritten_iff {s : State} {n : Nat} : s.keyWritten n = true ↔ ∀ a, a < n → s.buf.read a ≠ none :=
  Memory.hasBytes_iff

end Sys2Proof.Machine
end

