-- ==== Sys2Proof/Laws/Ops.lean ====
section
/-! SUPPORT. What the shared operations can do: one inversion lemma per operation ("if it answers a next state, then one
of these holds"), and the same for every meaning and for a whole step. -/

namespace Sys2Proof.Machine

/-! ## Acceptance -/

/-- What acceptance answers when it answers a next state. -/
theorem State.accept_next {s t : State} {i : Instr} (h : s.accept i = .next t) :
    i.reads.all s.written = true ∧
      ((i.fullHash = false ∧ t = s.start i .exec) ∨
        (i.fullHash = true ∧ s.cfg.bufBytes.toNat < s.keyLength ∧ t = s.raiseError .lenRange) ∨
        (i.fullHash = true ∧ s.keyLength ≤ s.cfg.bufBytes.toNat ∧ s.keyWritten s.keyLength = true ∧
          t = s.start i .init)) := by
  unfold State.accept at h
  split_ifs at h with h₁ h₂ h₃ h₄ <;> injection h with h <;> subst h
  · exact ⟨by simpa using h₁, .inl ⟨h₂, rfl⟩⟩
  · exact ⟨by simpa using h₁, .inr (.inl ⟨by simpa using h₂, h₃, rfl⟩)⟩
  · exact ⟨by simpa using h₁, .inr (.inr ⟨by simpa using h₂, by omega, by simpa using h₄, rfl⟩)⟩

/-- Where acceptance faults: an unwritten register, or an unwritten key byte of a full hash. -/
theorem State.accept_fault {s : State} {i : Instr} {f : Fault} (h : s.accept i = .fault f) :
    f = .unwrittenRead ∧ (i.reads.all s.written = false ∨ (i.fullHash = true ∧ s.keyWritten s.keyLength = false)) := by
  unfold State.accept at h
  split_ifs at h with h₁ h₂ h₃ h₄ <;> injection h with h <;> subst h
  · exact ⟨rfl, .inl h₁⟩
  · exact ⟨rfl, .inr ⟨by simpa using h₂, h₄⟩⟩

/-- Acceptance refuses nothing. -/
theorem State.accept_not_refused {s : State} {i : Instr} {r : Refusal} : s.accept i ≠ .refused r := by
  unfold State.accept
  split_ifs <;> simp

@[simp] theorem State.running_self {s : State} {i : Instr} {a : Answer} (h : s.eng.cmd = i) : s.running i a = a := by
  simp [State.running, h]

theorem State.running_next {s t : State} {i : Instr} {a : Answer} (h : s.running i a = .next t) :
    s.eng.cmd = i ∧ a = .next t := by
  unfold State.running at h
  split_ifs at h with hc
  exact ⟨hc, h⟩

/-! ## The two shapes of a command -/

theorem State.execStep_next {s t : State} {i : Instr} {v : U128} (h : s.execStep i v = .next t) :
    (s.eng.phase = .idle ∧ s.accept i = .next t) ∨
      (s.eng.phase = .exec ∧ s.eng.cmd = i ∧ t = s.complete v) := by
  unfold State.execStep at h
  split at h
  case h_1 hp => exact .inl ⟨hp, h⟩
  case h_2 hp =>
    obtain ⟨hc, h⟩ := State.running_next h
    injection h with h
    exact .inr ⟨hp, hc, h.symm⟩
  all_goals exact absurd (State.running_next h).2 (by simp)

theorem State.rejectRotate_next {s t : State} {i : Instr} (h : s.rejectRotate i = .next t) :
    s.eng.phase = .idle ∧ t = s.raiseError .badRotate := by
  unfold State.rejectRotate at h
  split at h
  case h_1 hp =>
    injection h with h
    exact ⟨hp, h.symm⟩
  all_goals exact absurd (State.running_next h).2 (by simp)

theorem State.hashStep_next {s t : State} {i : Instr} {bs : Nat} {init : Quad U64}
    {block tail : Except Fault (Quad U64)} {final : U128}
    (h : s.hashStep i bs init block tail final = .next t) :
    (s.eng.phase = .idle ∧ s.accept i = .next t) ∨
      (s.eng.cmd = i ∧
        ((s.eng.phase = .init ∧ t = s.stepInit bs init) ∨
          (s.eng.phase = .block ∧ ∃ l, block = .ok l ∧ t = s.stepBlock bs l) ∨
          (s.eng.phase = .tail ∧ ∃ l, tail = .ok l ∧ t = s.stepTail l) ∨
          (s.eng.phase = .final ∧ t = s.complete final))) := by
  unfold State.hashStep at h
  split at h
  case h_1 hp => exact .inl ⟨hp, h⟩
  case h_2 hp => exact absurd (State.running_next h).2 (by simp)
  case h_3 hp =>
    obtain ⟨hc, h⟩ := State.running_next h
    injection h with h
    exact .inr ⟨hc, .inl ⟨hp, h.symm⟩⟩
  case h_4 hp =>
    obtain ⟨hc, h⟩ := State.running_next h
    cases block with
    | error f => simp at h
    | ok l =>
      simp only [Host.Outcome.next.injEq] at h
      exact .inr ⟨hc, .inr (.inl ⟨hp, l, rfl, h.symm⟩)⟩
  case h_5 hp =>
    obtain ⟨hc, h⟩ := State.running_next h
    cases tail with
    | error f => simp at h
    | ok l =>
      simp only [Host.Outcome.next.injEq] at h
      exact .inr ⟨hc, .inr (.inr (.inl ⟨hp, l, rfl, h.symm⟩))⟩
  case h_6 hp =>
    obtain ⟨hc, h⟩ := State.running_next h
    injection h with h
    exact .inr ⟨hc, .inr (.inr (.inr ⟨hp, h.symm⟩))⟩

/-! ## Every meaning -/

/-- What a meaning can do when it answers a next state: accept or reject when the engine is idle, otherwise one engine
step of the running command (10_state.md R35, R36). -/
inductive ExecNext (i : Instr) (s : State) : State → Prop where
  | badRotate (hp : s.eng.phase = .idle) (hw : i.wf = false) : ExecNext i s (s.raiseError .badRotate)
  | accept {t : State} (hp : s.eng.phase = .idle) (hw : i.wf = true) (ha : s.accept i = .next t) : ExecNext i s t
  | exec (v : U128) (hp : s.eng.phase = .exec) (hc : s.eng.cmd = i) (hf : i.fullHash = false) :
      ExecNext i s (s.complete v)
  | init (l : Quad U64) (hp : s.eng.phase = .init) (hc : s.eng.cmd = i) (hf : i.fullHash = true) :
      ExecNext i s (s.stepInit (blockBytes i) l)
  | block (l : Quad U64) (hp : s.eng.phase = .block) (hc : s.eng.cmd = i) (hf : i.fullHash = true) :
      ExecNext i s (s.stepBlock (blockBytes i) l)
  | tail (l : Quad U64) (hp : s.eng.phase = .tail) (hc : s.eng.cmd = i) (hf : i.fullHash = true) :
      ExecNext i s (s.stepTail l)
  | final (v : U128) (hp : s.eng.phase = .final) (hc : s.eng.cmd = i) (hf : i.fullHash = true) :
      ExecNext i s (s.complete v)

theorem ExecNext.ofExecStep {s t : State} {i : Instr} {v : U128} (hw : i.wf = true) (hf : i.fullHash = false)
    (h : s.execStep i v = .next t) : ExecNext i s t := by
  obtain ⟨hp, ha⟩ | ⟨hp, hc, rfl⟩ := State.execStep_next h
  · exact .accept hp hw ha
  · exact .exec v hp hc hf

theorem ExecNext.ofHashStep {s t : State} {i : Instr} {bs : Nat} {init : Quad U64}
    {block tail : Except Fault (Quad U64)} {final : U128} (hw : i.wf = true) (hf : i.fullHash = true)
    (hb : bs = blockBytes i) (h : s.hashStep i bs init block tail final = .next t) : ExecNext i s t := by
  subst hb
  obtain ⟨hp, ha⟩ | ⟨hc, ⟨hp, rfl⟩ | ⟨hp, l, -, rfl⟩ | ⟨hp, l, -, rfl⟩ | ⟨hp, rfl⟩⟩ := State.hashStep_next h
  · exact .accept hp hw ha
  · exact .init init hp hc hf
  · exact .block l hp hc hf
  · exact .tail l hp hc hf
  · exact .final final hp hc hf

/-- The inversion lemma of `exec`. -/
theorem exec_next {i : Instr} {s t : State} (h : exec i s = .next t) : ExecNext i s t := by
  cases i with
  | hash32 => exact .ofHashStep rfl rfl rfl h
  | hash128X64 => exact .ofHashStep rfl rfl rfl h
  | hash128X86 => exact .ofHashStep rfl rfl rfl h
  | rotl32 amt =>
    simp only [Machine.exec, execRotl32] at h
    split_ifs at h with hw
    · exact .ofExecStep hw rfl h
    · obtain ⟨hp, rfl⟩ := State.rejectRotate_next h
      exact .badRotate hp (by simpa using hw)
  | rotl64 amt =>
    simp only [Machine.exec, execRotl64] at h
    split_ifs at h with hw
    · exact .ofExecStep hw rfl h
    · obtain ⟨hp, rfl⟩ := State.rejectRotate_next h
      exact .badRotate hp (by simpa using hw)
  | scramble32 => exact .ofExecStep rfl rfl h
  | fmix32 => exact .ofExecStep rfl rfl h
  | fmix64 => exact .ofExecStep rfl rfl h
  | mix32 => exact .ofExecStep rfl rfl h
  | tail32 => exact .ofExecStep rfl rfl h
  | fin32 => exact .ofExecStep rfl rfl h
  | mix64 => exact .ofExecStep rfl rfl h
  | tail64 => exact .ofExecStep rfl rfl h
  | fin64 => exact .ofExecStep rfl rfl h
  | mix86 => exact .ofExecStep rfl rfl h
  | tail86 => exact .ofExecStep rfl rfl h
  | fin86 => exact .ofExecStep rfl rfl h

/-- When the engine is idle, a command is accepted or rejected: `exec` is acceptance, but for an illegal rotate. -/
theorem exec_idle {i : Instr} {s : State} (hp : s.eng.phase = .idle) :
    exec i s = if i.wf then s.accept i else .next (s.raiseError .badRotate) := by
  cases i <;>
    simp [Machine.exec, execHash32, execHash128X64, execHash128X86, execRotl32, execRotl64, execScramble32, execFmix32,
      execFmix64, execMix32, execTail32, execFin32, execMix64, execTail64, execFin64, execMix86, execTail86, execFin86,
      State.hashStep, State.execStep, State.rejectRotate, Instr.wf, hp]

/-! ## Host accesses and turns -/

theorem State.writeCmd_next {s t : State} {w : U32} (h : s.writeCmd w = .next t) :
    s.busy = false ∧
      ((∃ c, decode w = .error c ∧ t = State.raiseError { s with cmd := w } c) ∨
        ∃ i, decode w = .ok i ∧ exec i { s with cmd := w } = .next t) := by
  unfold State.writeCmd at h
  split_ifs at h with hb
  refine ⟨by simpa using hb, ?_⟩
  split at h
  · rename_i c hd
    injection h with h
    exact .inl ⟨c, hd, h.symm⟩
  · rename_i i hd
    exact .inr ⟨i, hd, h⟩

/-- What a host register write can do when it answers a next state. -/
theorem State.hostWrite_next {s t : State} {n : Nat} {v : U64} (h : s.hostWrite n v = .next t) :
    (n = 0 ∧ s.writeCmd (v.setWidth 32) = .next t) ∨
      (n ≠ 0 ∧ t = s) ∨
      (n ≠ 0 ∧ s.busy = false ∧ ∃ r, Reg.ofNumber n = some r ∧ t = s.setReg r v) := by
  have hn : ∀ r, Reg.ofNumber n = some r → r ≠ .cmd → n ≠ 0 := by
    rintro r hr hne rfl
    exact hne (by simpa [Reg.ofNumber] using hr.symm)
  unfold State.hostWrite at h
  split at h
  · simp at h
  · rename_i hr
    refine .inl ⟨?_, h⟩
    match n, hr with
    | 0, _ => rfl
    | 1, hr | 2, hr | 3, hr | 4, hr | 5, hr | 6, hr | 7, hr | 8, hr | 9, hr | 10, hr | 11, hr | 12, hr | 13, hr =>
      simp [Reg.ofNumber] at hr
    | n + 14, hr => simp [Reg.ofNumber] at hr
  all_goals
    rename_i hr
    first
      | (injection h with h
         exact .inr (.inl ⟨hn _ hr (by simp), h.symm⟩))
      | (unfold State.writeInput at h
         split_ifs at h with hb
         injection h with h
         exact .inr (.inr ⟨hn _ hr (by simp), by simpa using hb, _, hr, h.symm⟩))

theorem State.hostWriteByte_next {s t : State} {off : Nat} {v : Byte} (h : s.hostWriteByte off v = .next t) :
    off < s.cfg.bufBytes.toNat ∧ s.busy = false ∧ t = s.setByte off v := by
  unfold State.hostWriteByte at h
  split_ifs at h with h₁ h₂
  injection h with h
  exact ⟨by omega, by simpa using h₂, h.symm⟩

/-- What a host action can do when it answers a next state: it writes CMD, it writes an input or a byte of a block that
is not busy, or it changes nothing but the environment. -/
inductive ActionNext (s : State) : HostAction → State → Prop where
  | command {v : U64} {t : State} (h : s.writeCmd (v.setWidth 32) = .next t) : ActionNext s (.wr 0 v) t
  | input {n : Nat} {v : U64} (r : Reg) (hn : n ≠ 0) (hr : Reg.ofNumber n = some r) (hb : s.busy = false) :
      ActionNext s (.wr n v) (s.setReg r v)
  | ignored {n : Nat} {v : U64} (hn : n ≠ 0) : ActionNext s (.wr n v) s
  | byte {off : Nat} {v : Byte} (ho : off < s.cfg.bufBytes.toNat) (hb : s.busy = false) :
      ActionNext s (.wrb off v) (s.setByte off v)
  | env {a : HostAction} (e : Env) (ha : ∀ v, a ≠ .wr 0 v) (he : e.schedule = s.env.schedule) :
      ActionNext s a { s with env := e }

theorem State.hostAction_next {s t : State} {a : HostAction} (h : s.hostAction a = .next t) : ActionNext s a t := by
  cases a with
  | wr n v =>
    obtain ⟨rfl, hw⟩ | ⟨hn, rfl⟩ | ⟨hn, hb, r, hr, rfl⟩ := State.hostWrite_next h
    · exact .command hw
    · exact .ignored hn
    · exact .input r hn hr hb
  | rd n =>
    simp only [State.hostAction] at h
    split at h <;> simp only [Host.Outcome.next.injEq, reduceCtorEq] at h
    exact h ▸ .env _ (by simp) rfl
  | wrb off v =>
    obtain ⟨ho, hb, rfl⟩ := State.hostWriteByte_next h
    exact .byte ho hb
  | rdb off =>
    simp only [State.hostAction] at h
    split at h <;> simp only [Host.Outcome.next.injEq, reduceCtorEq] at h
    exact h ▸ .env _ (by simp) rfl
  | mov dst src hi lo =>
    simp only [State.hostAction] at h
    split at h <;> simp only [Host.Outcome.next.injEq, reduceCtorEq] at h
    exact h ▸ .env _ (by simp) rfl
  | wait =>
    simp only [State.hostAction] at h
    split_ifs at h <;> simp only [Host.Outcome.next.injEq] at h
    · exact h ▸ .env _ (by simp) rfl
    · exact h ▸ .env _ (by simp) rfl

/-- What a step can do when it answers a next state. -/
inductive StepNext (s : State) : State → Prop where
  | reset (ht : s.turn = .platform) : StepNext s s.popTurn.resetBlock
  | fault (f : Fault) (hf : s.faulted = none) (ht : s.turn ≠ .platform) : StepNext s (s.popTurn.enterFaulted f)
  | engine {t : State} (hf : s.faulted = none) (ht : s.turn = .engine) (hb : s.busy = true)
      (h : Machine.exec s.eng.cmd s.popTurn = .next t) : StepNext s t
  | rest (hf : s.faulted = none) (ht : s.turn = .engine) (hb : s.busy = false) : StepNext s s.popTurn
  | noAction (hf : s.faulted = none) (ht : s.turn = .host) (hp : s.env.prog = []) : StepNext s s.popTurn
  | host {a : HostAction} {rest : List HostAction} {t : State} (hf : s.faulted = none) (ht : s.turn = .host)
      (hp : s.env.prog = a :: rest) (h : ActionNext s.popTurn.popAction a t) : StepNext s t

theorem State.enabledTurn_next {s t : State} {a : Answer} (h : s.enabledTurn a = .next t) :
    s.faulted = none ∧ (a = .next t ∨ ∃ f, a = .fault f ∧ t = s.enterFaulted f) := by
  unfold State.enabledTurn at h
  split at h
  · simp at h
  · rename_i hf
    cases a with
    | next u => exact ⟨hf, .inl h⟩
    | fault f =>
      simp only [State.settle, Host.Outcome.next.injEq] at h
      exact ⟨hf, .inr ⟨f, rfl, h.symm⟩⟩
    | refused r => simp [State.settle] at h

/-- The inversion lemma of `step`. -/
theorem step_next {s t : State} (h : step s = .next t) : StepNext s t := by
  unfold step State.takeTurn at h
  split at h
  · rename_i ht
    injection h with h
    exact h ▸ .reset ht
  · rename_i ht
    obtain ⟨hf, h | ⟨f, -, rfl⟩⟩ := State.enabledTurn_next h
    · unfold State.engineTurn at h
      split_ifs at h with hb
      · exact .engine hf ht hb h
      · injection h with h
        exact h ▸ .rest hf ht (by simpa using hb)
    · exact .fault f hf (by simp [ht])
  · rename_i ht
    obtain ⟨hf, h | ⟨f, -, rfl⟩⟩ := State.enabledTurn_next h
    · unfold State.hostTurn at h
      split at h
      · rename_i hp
        injection h with h
        exact h ▸ .noAction hf ht hp
      · rename_i a rest hp
        exact .host hf ht hp (State.hostAction_next h)
    · exact .fault f hf (by simp [ht])

end Sys2Proof.Machine
end

