-- ==== Sys2Proof/Laws/Keys.lean ====
section
/-! SUPPORT. What the engine reads of a key: `MemRead` returns the little-endian value of the key's bytes
(20_memory.md R62, R63). -/

namespace Sys2Proof.Machine

/-- Appending a byte to a little-endian word puts it above the others. -/
theorem leWord_append (bs : List Byte) (b : Byte) :
    leWord (bs ++ [b]) = leWord bs ||| (b.setWidth 64 <<< (8 * bs.length)) := by
  induction bs with
  | nil => simp [leWord]
  | cons c bs ih =>
    have h : 8 * (bs.length + 1) = 8 * bs.length + 8 := by ring
    simp only [List.cons_append, leWord, ih, List.length_cons, h, BitVec.shiftLeft_or_distrib, BitVec.shiftLeft_add,
      BitVec.or_assoc]

@[simp] theorem keySlice_zero (key : List Byte) (off : Nat) : keySlice key off 0 = [] := by simp [keySlice]

theorem keySlice_length {key : List Byte} {off n : Nat} (h : off + n ≤ key.length) :
    (keySlice key off n).length = n := by
  simp [keySlice]; omega

theorem keySlice_succ {key : List Byte} {off n : Nat} (h : off + n < key.length) :
    keySlice key off (n + 1) = keySlice key off n ++ [key[off + n]] := by
  unfold keySlice
  rw [List.take_add_one, List.getElem?_drop, List.getElem?_eq_getElem h]
  rfl

/-- The engine's read of key bytes (R62): the bytes exist and are written, so it does not fault. -/
theorem State.HoldsKey.memRead {s : State} {key : List Byte} (hk : s.HoldsKey key) {off : Nat} :
    ∀ n, off + n ≤ key.length → s.memRead off n = .ok (leWord (keySlice key off n)) := by
  obtain ⟨-, hb, hr⟩ := hk
  intro n
  induction n with
  | zero => intro _; simp [State.memRead, leWord]
  | succ n ih =>
    intro h
    have hread : s.readByte (off + n) = .ok key[off + n] :=
      State.readByte_eq_ok.mpr ⟨by omega, hr _ (by omega)⟩
    rw [State.memRead, ih (by omega)]
    simp only [hread]
    rw [keySlice_succ (by omega), leWord_append, keySlice_length (by omega)]

theorem State.HoldsKey.memRead2 {s : State} {key : List Byte} (hk : s.HoldsKey key) {a m b n : Nat}
    (h₁ : a + m ≤ key.length ∨ m = 0) (h₂ : b + n ≤ key.length ∨ n = 0) :
    s.memRead2 a m b n = .ok (leWord (keySlice key a m), leWord (keySlice key b n)) := by
  have e₁ : s.memRead a m = .ok (leWord (keySlice key a m)) := by
    obtain h | rfl := h₁
    · exact hk.memRead m h
    · simp [State.memRead, leWord]
  have e₂ : s.memRead b n = .ok (leWord (keySlice key b n)) := by
    obtain h | rfl := h₂
    · exact hk.memRead n h
    · simp [State.memRead, leWord]
  simp [State.memRead2, e₁, e₂]

/-- Four reads of up to four bytes each. -/
theorem State.HoldsKey.memRead86 {s : State} {key : List Byte} (hk : s.HoldsKey key) {off : Nat} {m : Fin 4 → Nat}
    (h : ∀ j : Fin 4, off + 4 * j.val + m j ≤ key.length ∨ m j = 0) :
    s.memRead86 off m = .ok (keyWords86 key off m) := by
  have h₀ := h 0
  have h₁ := h 1
  have h₂ := h 2
  have h₃ := h 3
  simp only [State.memRead86, hk.memRead2 (a := off) (b := off + 4) (by simpa using h₀) (by simpa using h₁),
    hk.memRead2 (a := off + 8) (b := off + 12) (by simpa using h₂) (by simpa using h₃), keyWords86]

/-- A state whose inputs are those of another holds the same key. -/
theorem State.HoldsKey.congr {s t : State} {key : List Byte} (hk : s.HoldsKey key) (h₁ : t.keyLen = s.keyLen)
    (h₂ : t.cfg = s.cfg) (h₃ : t.buf = s.buf) : t.HoldsKey key := by
  simpa [State.HoldsKey, State.keyLength, h₁, h₂, h₃] using hk

/-- A command accepted by acceptance holds a key (R35): the bytes the buffer lists. -/
theorem State.holdsKey_of_written {s : State} (hb : s.keyLength ≤ s.cfg.bufBytes.toNat)
    (hw : s.keyWritten s.keyLength = true) : ∃ key, s.HoldsKey key := by
  rw [State.keyWritten_iff] at hw
  refine ⟨(List.range s.keyLength).map fun a => (s.buf.read a).getD 0, by simp, by simpa using hb, ?_⟩
  intro i hi
  simp only [List.length_map, List.length_range] at hi
  cases hr : s.buf.read i with
  | none => exact absurd hr (hw i hi)
  | some b => simp [hr]

end Sys2Proof.Machine
end

