-- ==== Sys2Proof/Laws/PerInstr.lean ====
section
/-! SUPPORT. The family CanonicalWord: for each command, its word is the canonical one of the operation map
(30_encoding.md R90 to R93): reserved bits zero, its own `op`, its amount, and legal exactly when the command is
well-formed. One lemma per constructor. -/

namespace Sys2Proof.Laws.CanonicalWord

/-- The word of `i` has zero reserved bits, `i`'s operation and amount, an operation of the map, and passes
`decode_check` exactly when `i` is well-formed. -/
def Statement (i : Instr) : Prop :=
  reservedBits (encode i) = 0 ∧ opField (encode i) = i.opcode ∧ amtField (encode i) = i.amount ∧
    1 ≤ i.opcode.toNat ∧ i.opcode.toNat ≤ 0x11 ∧ (decodeCheck (encode i) = .noError ↔ i.wf = true)

theorem hash32 : Statement .hash32 := by
  unfold Statement
  decide

theorem hash128X64 : Statement .hash128X64 := by
  unfold Statement
  decide

theorem hash128X86 : Statement .hash128X86 := by
  unfold Statement
  decide

theorem rotl32 : ∀ amt : BitVec 6, Statement (.rotl32 amt) := by
  unfold Statement
  decide

theorem rotl64 : ∀ amt : BitVec 6, Statement (.rotl64 amt) := by
  unfold Statement
  decide

theorem scramble32 : Statement .scramble32 := by
  unfold Statement
  decide

theorem fmix32 : Statement .fmix32 := by
  unfold Statement
  decide

theorem fmix64 : Statement .fmix64 := by
  unfold Statement
  decide

theorem mix32 : Statement .mix32 := by
  unfold Statement
  decide

theorem tail32 : Statement .tail32 := by
  unfold Statement
  decide

theorem fin32 : Statement .fin32 := by
  unfold Statement
  decide

theorem mix64 : Statement .mix64 := by
  unfold Statement
  decide

theorem tail64 : Statement .tail64 := by
  unfold Statement
  decide

theorem fin64 : Statement .fin64 := by
  unfold Statement
  decide

theorem mix86 : Statement .mix86 := by
  unfold Statement
  decide

theorem tail86 : Statement .tail86 := by
  unfold Statement
  decide

theorem fin86 : Statement .fin86 := by
  unfold Statement
  decide

end Sys2Proof.Laws.CanonicalWord
end

