-- ==== Sys2Proof/Laws/Words.lean ====
section
/-! SUPPORT. The concatenations of the model as shifts and ors, and what a lane cell holds after a 32-bit write
(10_state.md R32, 30_encoding.md R97). -/

namespace Sys2Proof.Machine

theorem getLsbD_cat64 (a b : U32) (i : Nat) :
    BitVec.getLsbD (a ++ b : U64) i = if i < 32 then b.getLsbD i else a.getLsbD (i - 32) :=
  BitVec.getLsbD_append ..

theorem getLsbD_cat128 (a b : U64) (i : Nat) :
    BitVec.getLsbD (a ++ b : U128) i = if i < 64 then b.getLsbD i else a.getLsbD (i - 64) :=
  BitVec.getLsbD_append ..

/-- A cell reads back the 32 bits written to it. -/
@[simp] theorem setLow32_setWidth (c : U64) (v : U32) : (setLow32 c v).setWidth 32 = v := by
  apply BitVec.eq_of_getLsbD_eq
  intro i hi
  simp only [BitVec.getLsbD_setWidth, setLow32, getLsbD_cat64, hi, if_true, decide_true, Bool.true_and]

theorem setLow32_eq (c : U64) (v : U32) : setLow32 c v = (c >>> 32 <<< 32) ||| v.setWidth 64 := by
  apply BitVec.eq_of_getLsbD_eq
  intro i hi
  simp only [setLow32, getLsbD_cat64]
  by_cases h : i < 32
  · simp [h]; omega
  · have hv : v.getLsbD i = false := BitVec.getLsbD_of_ge _ _ (by omega)
    simp [h, show i - 32 < 32 by omega, hi, show 32 + (i - 32) = i by omega, hv]

/-- Writing a cell's own low half changes nothing. -/
theorem setLow32_self (c : U64) : setLow32 c (c.setWidth 32) = c := by
  apply BitVec.eq_of_getLsbD_eq
  intro i hi
  simp only [setLow32, getLsbD_cat64]
  by_cases h : i < 32
  · simp [h]
  · simp [h, show i - 32 < 32 by omega, show 32 + (i - 32) = i by omega]

theorem pack2_eq (a : U64 × U64) : pack2 a = a.1.setWidth 128 ||| (a.2.setWidth 128 <<< 64) := by
  apply BitVec.eq_of_getLsbD_eq
  intro i hi
  simp only [pack2, getLsbD_cat128]
  by_cases h : i < 64
  · simp [h, hi]
  · have ha : a.1.getLsbD i = false := BitVec.getLsbD_of_ge _ _ (by omega)
    simp [h, hi, ha, show i - 64 < 64 by omega]

theorem pack4_eq (a : Quad U32) :
    pack4 a = a.q0.setWidth 128 ||| (a.q1.setWidth 128 <<< 32) ||| (a.q2.setWidth 128 <<< 64) |||
      (a.q3.setWidth 128 <<< 96) := by
  obtain ⟨q0, q1, q2, q3⟩ := a
  apply BitVec.eq_of_getLsbD_eq
  intro i hi
  have h₁ : BitVec.getLsbD (q3 ++ q2 ++ q1 ++ q0 : U128) i =
      if i < 32 then q0.getLsbD i else BitVec.getLsbD (q3 ++ q2 ++ q1) (i - 32) := BitVec.getLsbD_append ..
  simp only [pack4, h₁, BitVec.getLsbD_append]
  by_cases h : i < 32
  · simp [h, hi, show i < 64 by omega, show i < 96 by omega]
  · have e₀ : q0.getLsbD i = false := BitVec.getLsbD_of_ge _ _ (by omega)
    by_cases h' : i < 64
    · simp [h, h', hi, e₀, show i < 96 by omega, show i - 32 < 32 by omega]
    · have e₁ : q1.getLsbD (i - 32) = false := BitVec.getLsbD_of_ge _ _ (by omega)
      by_cases h'' : i < 96
      · simp [h, h', h'', hi, e₀, e₁, show ¬(i - 32 < 32) by omega, show i - 64 < 32 by omega,
          show i - 32 - 32 = i - 64 by omega]
      · have e₂ : q2.getLsbD (i - 64) = false := BitVec.getLsbD_of_ge _ _ (by omega)
        simp [h, h', h'', hi, e₀, e₁, e₂, show ¬(i - 32 < 32) by omega, show ¬(i - 32 - 32 < 32) by omega,
          show i - 32 - 32 - 32 = i - 96 by omega]

end Sys2Proof.Machine
end

