-- ==== Sys2Proof/Laws/Turns.lean ====
section
/-! SUPPORT. Turns: an access does not depend on the environment or on the fault record, and what a turn of each agent
runs (70_reset_and_hazards.md R280, 60_exceptions.md R247). -/

namespace Sys2Proof.Machine

@[simp] theorem State.hostRead_env (s : State) (e : Env) (n : Nat) :
    State.hostRead { s with env := e } n = s.hostRead n := rfl

@[simp] theorem State.hostRead_faulted (s : State) (f : Option Fault) (n : Nat) :
    State.hostRead { s with faulted := f } n = s.hostRead n := rfl

@[simp] theorem State.readByte_env (s : State) (e : Env) (off : Nat) :
    State.readByte { s with env := e } off = s.readByte off := rfl

@[simp] theorem State.readByte_faulted (s : State) (f : Option Fault) (off : Nat) :
    State.readByte { s with faulted := f } off = s.readByte off := rfl

/-- A host turn runs the first action of the host's list. -/
theorem step_host {s : State} {a : HostAction} {rest : List HostAction} (hf : s.faulted = none) (ht : s.turn = .host)
    (hp : s.env.prog = a :: rest) : step s = s.popTurn.settle (s.popTurn.popAction.hostAction a) := by
  simp [step, State.takeTurn, ht, State.enabledTurn, State.hostTurn, hf, hp]

/-- An engine turn while BUSY runs the accepted command. -/
theorem step_engine {s : State} (hf : s.faulted = none) (ht : s.turn = .engine) (hb : s.status.state = .busy) :
    step s = s.popTurn.settle (exec s.eng.cmd s.popTurn) := by
  simp [step, State.takeTurn, ht, State.enabledTurn, State.engineTurn, hf, State.busy, hb]

/-- In `faulted` no step but reset is enabled. -/
theorem step_faulted {s : State} {f : Fault} (hf : s.faulted = some f) (ht : s.turn ≠ .platform) :
    step s = .fault f := by
  unfold step State.takeTurn
  split <;> simp_all [State.enabledTurn]

/-- `k` engine steps, then `n` more. -/
theorem engineRun_add {k n : Nat} {s t : State} (h : engineRun k s = .next t) :
    engineRun (k + n) s = engineRun n t := by
  induction k generalizing s with
  | zero =>
    simp only [engineRun, Host.Outcome.next.injEq] at h
    simp [h]
  | succ k ih =>
    rw [show k + 1 + n = k + n + 1 by ring]
    simp only [engineRun] at h ⊢
    split at h
    · rename_i u hu
      exact ih h
    · simp at h
    · simp at h

end Sys2Proof.Machine
end

