-- ==== Sys2Proof/Tests/Slice0.lean ====
section
/-! SUPPORT. Tests against the spec's own values (95_test_vectors.md), well-formedness smoke tests, and for every
statement that has hypotheses a concrete state that meets them. -/

namespace Sys2Proof.Tests

open Sys2Proof.Machine Sys2Proof.Claims

/-! ## States -/

/-- Reset, on a block with 20 key bytes. -/
def base : State := { State.reset with cfg := ⟨20, 0⟩ }

/-- `key[i] = i` (95_test_vectors.md, conventions). -/
def key (n : Nat) : List Byte := (List.range n).map (BitVec.ofNat 8)

/-- The bytes of "Hello, world". -/
def hello : List Byte := [0x48, 0x65, 0x6C, 0x6C, 0x6F, 0x2C, 0x20, 0x77, 0x6F, 0x72, 0x6C, 0x64]

/-- A buffer that holds a list of bytes from offset 0 on. -/
def bufOf (bytes : List Byte) : Memory := (List.range bytes.length).zip bytes

/-- The host has written the bytes, KEY_LEN and SEED. -/
def loaded (bytes : List Byte) (seed : U64) : State :=
  { base with keyLen := ⟨BitVec.ofNat 32 bytes.length, true⟩, seed := ⟨seed, true⟩, buf := bufOf bytes }

/-- The host has written the operand registers and KEY_LEN. -/
def operands (h k : Quad U64) (n : U32) : State :=
  { base with keyLen := ⟨n, true⟩, oph := h.map fun v => ⟨v, true⟩, opk := k.map fun v => ⟨v, true⟩ }

/-- The engine runs `i`, which the host has written to CMD. -/
def running (s : State) (i : Instr) (phase : Phase) (lanes : Quad U64 := Quad.all 0) (blk : Nat := 0) : State :=
  { s with cmd := encode i, status := ⟨.busy, .noError⟩, eng := ⟨phase, i, lanes, blk⟩ }

/-- A command has completed with `v`. -/
def finished (s : State) (i : Instr) (v : U128) : State :=
  { s with cmd := encode i, status := ⟨.done, .noError⟩, res := ⟨v, true⟩, eng := { s.eng with cmd := i } }

/-- The host still has `prog` to do, and `schedule` says who moves. -/
def driven (s : State) (prog : List HostAction) (schedule : List Agent) : State :=
  { s with env := ⟨prog, schedule, []⟩ }

/-- A state with every operand written. -/
def ops : State := operands (Quad.all 1) (Quad.all 1) 3

/-- RES after a step, if it is a next state. -/
def resOf (a : Answer) : Option U128 := match a with
  | .next t => some t.res.value
  | .fault _ => none
  | .refused _ => none

/-- The lanes after a step. -/
def lanesOf (a : Answer) : Option (Quad U64) := match a with
  | .next t => some t.eng.lanes
  | .fault _ => none
  | .refused _ => none

/-- STATUS after a step. -/
def statusOf (a : Answer) : Option U32 := match a with
  | .next t => some t.status.word
  | .fault _ => none
  | .refused _ => none

/-- The fault a step stops with. -/
def faultOf (a : Answer) : Option Fault := match a with
  | .next _ => none
  | .fault f => some f
  | .refused _ => none

/-- The fault recorded after a step. -/
def recordOf (a : Answer) : Option Fault := match a with
  | .next t => t.faulted
  | .fault _ => none
  | .refused _ => none

/-- The newest value the host has read after a step. -/
def readOf (a : Answer) : Option U64 := match a with
  | .next t => t.env.reads.head?.map HostRead.value
  | .fault _ => none
  | .refused _ => none

/-- What a word decodes to: the command, or the code it is rejected with. -/
def decoded (w : U32) : Option Instr := match decode w with
  | .ok i => some i
  | .error _ => none

/-! ## Well-formedness (30_encoding.md R92) -/

theorem test_wf_rotl32_0 : (Instr.rotl32 0).wf = false := by decide
theorem test_wf_rotl32_32 : (Instr.rotl32 32).wf = false := by decide
theorem test_wf_rotl32_31 : (Instr.rotl32 31).wf = true := by decide
theorem test_wf_rotl64_0 : (Instr.rotl64 0).wf = false := by decide
theorem test_wf_rotl64_63 : (Instr.rotl64 63).wf = true := by decide

/-! ## Decoding, each word written out from the operation map (30_encoding.md R90, R91) -/

/-- reserved 000000000000000000000, amt 000000, op 00001. -/
theorem test_decode_hash32 : decode 0b000000000000000000000_000000_00001 = .ok .hash32 := rfl
/-- reserved 000000000000000000000, amt 000000, op 00010. -/
theorem test_decode_hash128X64 : decode 0b000000000000000000000_000000_00010 = .ok .hash128X64 := rfl
/-- reserved 000000000000000000000, amt 000000, op 00011. -/
theorem test_decode_hash128X86 : decode 0b000000000000000000000_000000_00011 = .ok .hash128X86 := rfl
/-- reserved 000000000000000000000, amt 001101, op 00100. -/
theorem test_decode_rotl32 : decode 0b000000000000000000000_001101_00100 = .ok (.rotl32 13) := rfl
/-- reserved 000000000000000000000, amt 011111, op 00101. -/
theorem test_decode_rotl64 : decode 0b000000000000000000000_011111_00101 = .ok (.rotl64 31) := rfl
/-- reserved 000000000000000000000, amt 000000, op 00110. -/
theorem test_decode_scramble32 : decode 0b000000000000000000000_000000_00110 = .ok .scramble32 := rfl
/-- reserved 000000000000000000000, amt 000000, op 00111. -/
theorem test_decode_fmix32 : decode 0b000000000000000000000_000000_00111 = .ok .fmix32 := rfl
/-- reserved 000000000000000000000, amt 000000, op 01000. -/
theorem test_decode_fmix64 : decode 0b000000000000000000000_000000_01000 = .ok .fmix64 := rfl
/-- reserved 000000000000000000000, amt 000000, op 01001. -/
theorem test_decode_mix32 : decode 0b000000000000000000000_000000_01001 = .ok .mix32 := rfl
/-- reserved 000000000000000000000, amt 000000, op 01010. -/
theorem test_decode_tail32 : decode 0b000000000000000000000_000000_01010 = .ok .tail32 := rfl
/-- reserved 000000000000000000000, amt 000000, op 01011. -/
theorem test_decode_fin32 : decode 0b000000000000000000000_000000_01011 = .ok .fin32 := rfl
/-- reserved 000000000000000000000, amt 000000, op 01100. -/
theorem test_decode_mix64 : decode 0b000000000000000000000_000000_01100 = .ok .mix64 := rfl
/-- reserved 000000000000000000000, amt 000000, op 01101. -/
theorem test_decode_tail64 : decode 0b000000000000000000000_000000_01101 = .ok .tail64 := rfl
/-- reserved 000000000000000000000, amt 000000, op 01110. -/
theorem test_decode_fin64 : decode 0b000000000000000000000_000000_01110 = .ok .fin64 := rfl
/-- reserved 000000000000000000000, amt 000000, op 01111. -/
theorem test_decode_mix86 : decode 0b000000000000000000000_000000_01111 = .ok .mix86 := rfl
/-- reserved 000000000000000000000, amt 000000, op 10000. -/
theorem test_decode_tail86 : decode 0b000000000000000000000_000000_10000 = .ok .tail86 := rfl
/-- reserved 000000000000000000000, amt 000000, op 10001. -/
theorem test_decode_fin86 : decode 0b000000000000000000000_000000_10001 = .ok .fin86 := rfl

/-- 95_test_vectors.md section 2.5, the rows that are rejected or at a boundary. -/
theorem test_decode_check : [(0x00000000, ErrCode.illegalOp), (0x00000012, .illegalOp), (0x0000001F, .illegalOp),
    (0x80000000, .illegalOp), (0x80000001, .reservedField), (0x00000801, .reservedField), (0x00000812, .illegalOp),
    (0x00000021, .reservedField), (0x00000026, .reservedField), (0x00000004, .badRotate), (0x00000024, .noError),
    (0x000003E4, .noError), (0x00000404, .badRotate), (0x000007E4, .badRotate), (0x00000005, .badRotate),
    (0x00000425, .noError), (0x000007E5, .noError), (0x00000FE4, .reservedField)].all
      (fun (w, c) => decodeCheck w == c) = true := by decide

/-- The same rows as the block rejects them (L7, L18 of section 2.6 and R242). -/
theorem test_rejects : [(0x00000000, 0x13), (0x00000012, 0x13), (0x80000000, 0x13), (0x80000001, 0x23),
    (0x00000812, 0x13), (0x00000027, 0x23), (0x00000004, 0x33), (0x00000404, 0x33), (0x00000005, 0x33),
    (0x00000FE4, 0x23)].all (fun ((w, st) : U32 × U32) => statusOf (ops.writeCmd w) == some st) = true := by decide

/-! ## The functions (95_test_vectors.md sections 1 and 2.1 to 2.4) -/

theorem test_rotl32 : rotl32 0x80000001 1 = 0x00000003 ∧ rotl32 0x12345678 31 = 0x091A2B3C := by decide
theorem test_rotl64 : rotl64 0x0123456789ABCDEF 33 = 0x13579BDE02468ACF ∧
    rotl64 0x0123456789ABCDEF 63 = 0x8091A2B3C4D5E6F7 := by decide
theorem test_scramble32 : scramble32 0x12345678 = 0x6E163DCB := by decide
theorem test_fmix32 : fmix32 0xDEADBEEF = 0x0DE5C6A9 := by decide
theorem test_fmix64 : fmix64 0x0123456789ABCDEF = 0x87CBFBFE89022CEA := by decide
theorem test_toSigned32 : toSigned32 0x6A728C54 = 1785891924 ∧ toSigned32 0xF5B64E9A = -172601702 := by decide
/-- S1, S2, and a tail of each length (section 2.2). -/
theorem test_hash32u : hash32u hello 0 = 0x6A728C54 ∧ hash32u hello 10 = 0xF5B64E9A ∧
    hash32u (hello.take 1) 0 = 0x407F6809 ∧ hash32u (hello.take 2) 10 = 0x09FBE416 ∧
    hash32u (hello.take 3) 0 = 0xC8077FF4 ∧ hash32u (hello.take 7) 10 = 0x1E2E2EC6 := by decide
/-- S3, S4, and keys with one and two blocks (section 2.3). -/
theorem test_hash128X64 : hash128X64 hello 0 = 158517598496188337575393694976300464500 ∧
    hash128X64 hello 80 = 30039177286814921195667057753583847313 ∧
    hash128X64 (key 17) 0 = 0xC15F026B9EDAA8245C76F40F9FE7C20E ∧
    hash128X64 (key 33) 0 = 0x55AC8073A7D6A30B7D41281BFABA4612 := by decide
/-- S6, S7, and keys with a block (section 2.4), which tell the post-update h1 of 90_conflicts.md C1 apart. -/
theorem test_hash128X86 : hash128X86 hello 0 = 253056019824187517714158156925852552360 ∧
    hash128X86 hello 7 = 52510795136989075550025607058488316817 ∧
    hash128X86 (key 16) 0 = 0x89A55BEFEA538074559180EE6C25C825 ∧
    hash128X86 (key 20) 0 = 0x40FA8E5AA5A54D56C4867CA12B0CDCD2 := by decide

/-! ## One step of each command (95_test_vectors.md, the stage and primitive rows) -/

/-- The EXEC step of `i`. -/
def execOf (i : Instr) (s : State) : Option U128 := resOf (exec i (running s i .exec))

theorem test_rotl32_step : execOf (.rotl32 13) (operands ⟨0xFFFFFFFF12345678, 0, 0, 0⟩ ⟨0, 0, 0, 0⟩ 0) =
    some 0x8ACF0246 := by decide
theorem test_rotl64_step : execOf (.rotl64 31) (operands ⟨0x0123456789ABCDEF, 0, 0, 0⟩ ⟨0, 0, 0, 0⟩ 0) =
    some 0xC4D5E6F78091A2B3 := by decide
theorem test_scramble32_step : execOf .scramble32 (operands ⟨0, 0, 0, 0⟩ ⟨0x6C6C6548, 0, 0, 0⟩ 0) =
    some 0x0153080C := by decide
theorem test_fmix32_step : execOf .fmix32 (operands ⟨0x12345678, 0, 0, 0⟩ ⟨0, 0, 0, 0⟩ 0) =
    some 0xE37CD1BC := by decide
theorem test_fmix64_step : execOf .fmix64 (operands ⟨1, 0, 0, 0⟩ ⟨0, 0, 0, 0⟩ 0) =
    some 0xB456BCFC34C2CB2C := by decide
theorem test_mix32_step : execOf .mix32 (operands ⟨0x100000000, 0, 0, 0⟩ ⟨0x6C6C6548, 0, 0, 0⟩ 0) =
    some 0xCB5BEC36 := by decide
theorem test_mix32_ones_step : execOf .mix32 (operands ⟨0xFFFFFFFF, 0, 0, 0⟩ ⟨0xFFFFFFFF, 0, 0, 0⟩ 0) =
    some 0xB849F5EE := by decide
theorem test_tail32_step : execOf .tail32 (operands ⟨0x12345678, 0, 0, 0⟩ ⟨0x0000FFFF, 0, 0, 0⟩ 2) =
    some 0x14FFE663 := by decide
theorem test_tail32_whole_step : execOf .tail32 (operands ⟨0x0000ABCD, 0, 0, 0⟩ ⟨0xFFFFFFFF, 0, 0, 0⟩ 4) =
    some 0x0000ABCD := by decide
theorem test_fin32_step : execOf .fin32 (operands ⟨0xB8E73C48, 0, 0, 0⟩ ⟨0, 0, 0, 0⟩ 5) = some 0x12DA77C8 := by decide
theorem test_fin32_ones_step : execOf .fin32 (operands ⟨0xFFFFFFFF, 0, 0, 0⟩ ⟨0, 0, 0, 0⟩ 0xFFFFFFFF) =
    some 0 := by decide
theorem test_mix64_step : execOf .mix64 (operands ⟨10, 10, 0, 0⟩ ⟨0x77202C6F6C6C6548, 0x6548202E646C726F, 0, 0⟩ 0) =
    some 0x44004B156636A6A332D37FB537B334D7 := by decide
theorem test_tail64_step : execOf .tail64 (operands ⟨0, 0, 0, 0⟩ ⟨0xFFFFFFFFFFFFFFFF, 0xFFFFFFFFFFFFFFFF, 0, 0⟩ 9) =
    some 0xF6FC3E035E41456811CC7F70ECDB6E49 := by decide
theorem test_tail64_whole_step : execOf .tail64 (operands ⟨5, 6, 0, 0⟩ ⟨0xFFFFFFFFFFFFFFFF, 0xFFFFFFFFFFFFFFFF, 0, 0⟩ 16) =
    some 0x00000000000000060000000000000005 := by decide
theorem test_fin64_step : execOf .fin64 (operands ⟨0x855B899ADEE33158, 0x81733E833EB16EC9, 0, 0⟩ ⟨0, 0, 0, 0⟩ 12) =
    some 0x77416103E3FFF7B8EBD28B45027AB974 := by decide
theorem test_mix86_step : execOf .mix86 (operands ⟨0, 0, 0, 0⟩ ⟨0x03020100, 0x07060504, 0x0B0A0908, 0x0F0E0D0C⟩ 0) =
    some 0xE3E40E3045E13894E63B85D24DA35DC9 := by decide
theorem test_mix86_ones_step : execOf .mix86 (operands (Quad.all 0xFFFFFFFF) (Quad.all 0xFFFFFFFF) 0) =
    some 0x876E818432A78CB093F81D22C7CABB8E := by decide
theorem test_tail86_step : execOf .tail86 (operands ⟨0, 0, 0, 0⟩ (Quad.all 0xFFFFFFFF) 13) =
    some 0x16D972E0D2FEF4DB0DCFA5950D3CF6C2 := by decide
theorem test_tail86_5_step : execOf .tail86 (operands ⟨0, 0, 0, 0⟩ (Quad.all 0xFFFFFFFF) 5) =
    some 0x0000000000000000DAA958A80D3CF6C2 := by decide
theorem test_fin86_step : execOf .fin86 (operands ⟨0x1EEF14A7, 0x709C089B, 0x58482592, 0⟩ ⟨0, 0, 0, 0⟩ 12) =
    some 0xBE60D10DEC128BA9E51D9F90693D8CA8 := by decide

/-- Block 1 of "Hello, world" under seed 10: the lanes of 95_test_vectors.md section 2.2, from 0xCB582C36 to
0x2AB5BD6F; the high half of the cell stays. -/
theorem test_hash32_block : lanesOf (exec .hash32 (running (loaded hello 10) .hash32 .block
    ⟨0x99999999CB582C36, 2, 3, 4⟩ 1)) = some ⟨0x999999992AB5BD6F, 2, 3, 4⟩ := by decide

theorem test_hash128X64_tail : lanesOf (exec .hash128X64 (running (loaded hello 0) .hash128X64 .tail
    ⟨0, 0, 3, 4⟩ 0)) = some ⟨0x855B899ADEE33158, 0x81733E833EB16EC9, 3, 4⟩ := by decide

theorem test_hash128X86_tail : lanesOf (exec .hash128X86 (running (loaded (key 20) 0) .hash128X86 .tail
    ⟨0x4DA35DC9, 0xE63B85D2, 0x45E13894, 0xE3E40E30⟩ 1)) =
    some ⟨0x8050FA6A, 0xE63B85D2, 0x45E13894, 0xE3E40E30⟩ := by decide

/-! ## The lifecycle (95_test_vectors.md section 2.6), one step each -/

/-- L2, L3: unwritten registers. -/
theorem test_L2 : recordOf (step (driven base [.rd 12] [.host])) = some .unwrittenRead := by decide
/-- L4 at this block's size. -/
theorem test_L4 : recordOf (step (driven base [.wrb 20 0] [.host])) = some .bufferRange := by decide
theorem test_L5 : recordOf (step (driven base [.wr 14 0] [.host])) = some .unmappedRegister := by decide
theorem test_L6 : statusOf (step (driven base [.wr 1 0xFFFFFFFF] [.host])) = some 0 := by decide
theorem test_L8 : recordOf (step (driven base [.wr 0 0x24] [.host])) = some .unwrittenRead := by decide
/-- L9: unwritten SEED is checked before LEN_RANGE. -/
theorem test_L9 : recordOf (step (driven { base with keyLen := ⟨21, true⟩ } [.wr 0 1] [.host])) =
    some .unwrittenRead := by decide
/-- L10: LEN_RANGE is checked before the key bytes. -/
theorem test_L10 : statusOf (step (driven { base with keyLen := ⟨21, true⟩, seed := ⟨0, true⟩ } [.wr 0 1] [.host])) =
    some 0x43 := by decide
/-- L12: an unwritten key byte below KEY_LEN. -/
theorem test_L12 : recordOf (step (driven { loaded (key 2) 0 with keyLen := ⟨3, true⟩ } [.wr 0 1] [.host])) =
    some .unwrittenRead := by decide
/-- L13: the empty key needs no key byte. -/
theorem test_L13 : statusOf (step (driven (loaded [] 1) [.wr 0 1] [.host])) = some 1 := by decide
/-- L14: OPH0 is read while BUSY, and STATUS reads 1. -/
theorem test_L14 : readOf (step (driven (running ops .fmix32 .exec) [.rd 4] [.host])) = some 1 ∧
    readOf (step (driven (running ops .fmix32 .exec) [.rd 1] [.host])) = some 1 := by decide
/-- L15, L16: a CMD write and a key-byte write while BUSY. -/
theorem test_L15 : recordOf (step (driven (running ops .fmix32 .exec) [.wr 0 7] [.host])) = some .writeWhileBusy ∧
    recordOf (step (driven (running ops .fmix32 .exec) [.wrb 0 0] [.host])) = some .writeWhileBusy := by decide
/-- L17: a RES write while BUSY is ignored. -/
theorem test_L17 : statusOf (step (driven (running ops .fmix32 .exec) [.wr 12 5] [.host])) = some 1 := by decide
/-- L18: an error leaves RES as it was. -/
theorem test_L18 : statusOf ((finished ops .fmix32 0x514E28B7).writeCmd 0x27) = some 0x23 ∧
    resOf ((finished ops .fmix32 0x514E28B7).writeCmd 0x27) = some 0x514E28B7 := by decide
/-- L19: TAIL32 reads KEY_LEN. -/
theorem test_L19 : faultOf ({ ops with keyLen := ⟨3, false⟩ }.writeCmd 0x0A) = some .unwrittenRead := by decide
/-- A step with the command word placed runs it: HASH128_X64 on the empty key of reset, and ROTL32 #0. -/
theorem test_withFetchWord : statusOf (step (State.reset.withFetchWord 32 2)) = some 1 ∧
    statusOf (step (State.reset.withFetchWord 32 4)) = some 0x33 ∧ decodeTableWord 32 2 = some .hash128X64 := by decide

/-! ## The assembler's forms (30_encoding.md R100 to R105) -/

theorem test_key : keyText ['a', '\\', 'x', 'F', 'f', '~'] = some [0x61, 0xFF, 0x7E] ∧
    asmKey [0x61, 0xFF] = [.wrb 0 0x61, .wrb 1 0xFF, .wr 2 2] := by decide
/-- A MOV's field lies inside its source or does not (log entry 14). -/
theorem test_fits : (HostAction.mov 4 1 7 4).fits = true ∧ (HostAction.mov 4 2 32 0).fits = false ∧
    (HostAction.mov 4 3 63 0).fits = true ∧ (HostAction.mov 4 3 64 0).fits = false ∧
    (HostAction.mov 4 3 0 1).fits = false ∧ fieldOf 0xFF 0 1 = 0 := by decide
/-- A `\x` without two hexadecimal digits is rejected, whatever follows it; another backslash is itself; a
character outside 0x20 to 0x7E is rejected (log entry 13). -/
theorem test_keyText_backslash : keyText ['\\', 'x', 'F'] = none ∧ keyText ['\\', 'x', 'G', '0'] = none ∧
    keyText ['\\', 'x'] = none ∧ keyText ['a', '\n'] = none ∧ keyText ['é'] = none ∧ keyText ['\\', 'y'] = some [0x5C, 0x79] := by decide
theorem test_hash128 : asmHash128 = [.wr 0 2] ∧ asmHash128 true = [.wr 0 3] ∧ asmRun .fmix32 = [.wr 0 7, .wait] := by
  decide
theorem test_seedOf : seedOf (-1) = 0xFFFFFFFFFFFFFFFF := by decide

/-! ## Witnesses: states that meet the hypotheses of each statement -/

/-! ### States of the invariant -/

theorem inv_base : base.Inv :=
  ⟨by decide, by decide, by decide, by decide, by decide, by decide, fun h => absurd h (by decide)⟩

theorem inv_ops : ops.Inv :=
  ⟨by decide, by decide, by decide, by decide, by decide, by decide, fun h => absurd h (by decide)⟩

theorem inv_done : (finished ops .fmix32 0x514E28B7).Inv :=
  ⟨by decide, by decide, by decide, by decide, by decide, by decide, fun h => absurd h (by decide)⟩

/-- An idle block with a rejected command. -/
def erred : State := { loaded (key 20) 7 with cmd := 0x27, status := ⟨.error, .reservedField⟩ }

theorem inv_erred : erred.Inv :=
  ⟨by decide, by decide, by decide, by decide, by decide, by decide, fun h => absurd h (by decide)⟩

/-- A block with a key of 20 bytes, nothing running. -/
theorem inv_loaded : (loaded (key 20) 7).Inv :=
  ⟨by decide, by decide, by decide, by decide, by decide, by decide, fun h => absurd h (by decide)⟩

theorem inv_exec : (running ops .fmix32 .exec).Inv :=
  ⟨by decide, by decide, by decide, by decide, by decide, by decide,
    fun _ => ⟨rfl, by decide, by decide, by decide, by decide, by decide, by decide⟩⟩

theorem inv_init : (running (loaded (key 20) 7) .hash128X86 .init (blk := 0)).Inv :=
  ⟨by decide, by decide, by decide, by decide, by decide, by decide,
    fun _ => ⟨rfl, by decide, by decide, by decide, by decide, by decide, by decide⟩⟩

theorem inv_block : (running (loaded (key 20) 7) .hash128X86 .block (blk := 0)).Inv :=
  ⟨by decide, by decide, by decide, by decide, by decide, by decide,
    fun _ => ⟨rfl, by decide, by decide, by decide, by decide, by decide, by decide⟩⟩

theorem inv_tail : (running (loaded (key 20) 7) .hash128X86 .tail (blk := 1)).Inv :=
  ⟨by decide, by decide, by decide, by decide, by decide, by decide,
    fun _ => ⟨rfl, by decide, by decide, by decide, by decide, by decide, by decide⟩⟩

theorem inv_final : (running (loaded (key 20) 7) .hash128X86 .final (blk := 1)).Inv :=
  ⟨by decide, by decide, by decide, by decide, by decide, by decide,
    fun _ => ⟨rfl, by decide, by decide, by decide, by decide, by decide, by decide⟩⟩

/-- The environment is no part of the invariant. -/
theorem inv_driven {s : State} (h : s.Inv) (prog : List HostAction) (schedule : List Agent) :
    (driven s prog schedule).Inv := by
  obtain ⟨h₁, h₂, h₃, h₄, h₅, h₆, h₇⟩ := h
  refine ⟨h₁, h₂, h₃, h₄, h₅, h₆, fun hb => ?_⟩
  obtain ⟨r₁, r₂, r₃, r₄, r₅, r₆, r₇⟩ := h₇ hb
  refine ⟨r₁, r₂, ?_, r₄, r₅, r₆, r₇⟩
  rw [← r₃]
  exact congrArg _ (funext fun r => by cases r <;> rfl)

theorem holds_key (n : Nat) (h : n ≤ 20) (seed : U64) : (loaded (key n) seed).HoldsKey (key n) := by
  have hl : (key n).length = n := by simp [key]
  refine ⟨?_, by simpa [hl, loaded, base] using h, ?_⟩
  · simp only [State.keyLength, loaded, hl, BitVec.toNat_ofNat]
    omega
  · change ∀ (i : Nat) (_ : i < (key n).length), (bufOf (key n)).read i = some (key n)[i]
    clear hl
    interval_cases n <;> decide

/-! ### Encoding, reset, host accesses -/

/-- MalformedWordsRejected: the clauses at their boundary words. -/
theorem witness_malformed : ops.status.state ≠ .busy ∧ ops.eng.phase = .idle ∧
    [0x00, 0x12, 0x1F].all (fun (w : U32) => statusOf (ops.writeCmd w) == some 0x13) = true ∧
    [0x801, 0x80000011, 0x21, 0x7F1, 0x804, 0xFFFFFFE5].all
      (fun (w : U32) => statusOf (ops.writeCmd w) == some 0x23) = true ∧
    [0x004, 0x404, 0x7E4, 0x005].all (fun (w : U32) => statusOf (ops.writeCmd w) == some 0x33) = true ∧
    [0x024, 0x3E4, 0x025, 0x7E5].all (fun (w : U32) => statusOf (ops.writeCmd w) == some 0x01) = true := by decide

/-- ResetEventRestoresBlock: a busy block and a faulted one. -/
theorem witness_resetEvent :
    (driven (running ops .fmix32 .exec) [] [.platform]).env.schedule = [.platform] ∧
    (driven { ops with faulted := some .bufferRange } [.wait] [.platform, .host]).env.schedule = [.platform, .host] ∧
    statusOf (step (driven (running ops .fmix32 .exec) [] [.platform])) = some 0 := by decide

/-- ResetState and ReadsAfterReset: the ends of the register range, and the last byte of a buffer of 20. -/
theorem witness_readsAfterReset : Reg.keyLen ≠ .cmd ∧ Reg.keyLen ≠ .status ∧
    State.reset.hostRead 2 = .error .unwrittenRead ∧ State.reset.hostRead 13 = .error .unwrittenRead ∧
    19 < base.cfg.bufBytes.toNat ∧ base.readByte 19 = .error .unwrittenRead :=
  ⟨by decide, by decide, rfl, rfl, by decide, rfl⟩

/-- UnmappedRegistersFault: the numbers on both sides of the boundary. -/
theorem witness_unmapped : faultOf (base.hostWrite 14 0) = some .unmappedRegister ∧
    faultOf (base.hostWrite 13 0) = none ∧ base.hostRead 13 = .error .unwrittenRead ∧
    base.hostRead 14 = .error .unmappedRegister := by
  refine ⟨by decide, by decide, rfl, rfl⟩

/-- StatusWordFields: the invariant holds in each of the four values of STATE. -/
theorem witness_statusWord : (base.Inv ∧ base.status.state = .idle) ∧
    ((running ops .fmix32 .exec).Inv ∧ (running ops .fmix32 .exec).status.state = .busy) ∧
    ((finished ops .fmix32 0x514E28B7).Inv ∧ (finished ops .fmix32 0x514E28B7).status.state = .done) ∧
    (erred.Inv ∧ erred.status.state = .error ∧ erred.status.word = 0x23) :=
  ⟨⟨inv_base, rfl⟩, ⟨inv_exec, rfl⟩, ⟨inv_done, rfl⟩, ⟨inv_erred, rfl, rfl⟩⟩

/-- BusyRule: a busy block at the ends of each range, with a written and an unwritten register and byte. -/
theorem witness_busy : (running ops .fmix32 .exec).status.state = .busy ∧
    [0, 2, 11].all (fun n => faultOf ((running ops .fmix32 .exec).hostWrite n 5) == some .writeWhileBusy) = true ∧
    [0, 19].all (fun off => faultOf ((running ops .fmix32 .exec).hostWriteByte off 5) == some .writeWhileBusy) = true ∧
    [1, 12, 13].all (fun n => faultOf ((running ops .fmix32 .exec).hostWrite n 5) == none) = true ∧
    (running ops .fmix32 .exec).hostRead 11 = .ok 1 ∧ (running base .fmix32 .exec).hostRead 11 = .error .unwrittenRead ∧
    (running ops .fmix32 .exec).readByte 19 = .error .unwrittenRead ∧
    (running (loaded (key 20) 7) .hash32 .init).readByte 19 = .ok 19 := by
  refine ⟨rfl, by decide, by decide, by decide, rfl, rfl, rfl, rfl⟩

/-- ResultRegister: RES written, unwritten, busy, and changed by a completion step of a 32-bit and a 64-bit result. -/
theorem witness_result : (finished ops .fmix32 0x514E28B7).status.state ≠ .busy ∧ (finished ops .fmix32 0x514E28B7).res.written = true ∧
    base.status.state ≠ .busy ∧ base.res.written = false ∧ (running ops .fmix32 .exec).status.state = .busy ∧
    (driven (running ops .fmix32 .exec) [] []).Inv ∧
    resOf (step (driven (running ops .fmix32 .exec) [] [])) = some 0x514E28B7 ∧
    (driven (running ops .fmix32 .exec) [] []).res.value ≠ 0x514E28B7 ∧
    resOf (exec .fmix64 (running ops .fmix64 .exec)) = some 0xB456BCFC34C2CB2C ∧
    resOf (exec .hash32 (running (loaded hello 0) .hash32 .final ⟨0xA1590249, 0, 0, 0⟩ 3)) = some 0x6A728C54 :=
  ⟨by decide, rfl, by decide, rfl, rfl, inv_driven inv_exec _ _, by decide, by decide, by decide, by decide⟩

/-- CmdReadsLastWord: an idle block takes a word, and a host turn and a reset change CMD. -/
theorem witness_cmd : ops.eng.phase = .idle ∧ statusOf (ops.writeCmd 0x80000001) = some 0x23 ∧
    (driven ops [.wr 0 7] [.host]).Inv ∧ statusOf (step (driven ops [.wr 0 7] [.host])) = some 1 ∧
    (driven (finished ops .fmix32 0x514E28B7) [] [.platform]).Inv ∧
    statusOf (step (driven (finished ops .fmix32 0x514E28B7) [] [.platform])) = some 0 :=
  ⟨rfl, by decide, inv_driven inv_ops _ _, by decide, inv_driven inv_done _ _, by decide⟩

/-- RegisterWriteThenRead: the ends of the range, with a value wider than KEY_LEN. -/
theorem witness_register : ops.status.state ≠ .busy ∧ faultOf (base.hostWrite 2 0x1FFFFFFFF) = none ∧ faultOf (base.hostWrite 11 5) = none := by
  decide

/-- KeyByteAccess: the offsets on both sides of BUF_BYTES, busy and not, unwritten and written. -/
theorem witness_keyByte : base.cfg.bufBytes.toNat = 20 ∧ base.status.state ≠ .busy ∧ base.buf.read 19 = none ∧
    (running ops .fmix32 .exec).status.state = .busy ∧ (loaded (key 20) 7).buf.read 19 = some 19 := by decide

/-! ### Acceptance -/

/-- AcceptanceCheckOrder and ErrorResponse: every clause, at KEY_LEN = BUF_BYTES and one above. -/
theorem witness_acceptance : (running ops .fmix32 .exec).Inv ∧
    faultOf ((running ops .fmix32 .exec).writeCmd 7) = some .writeWhileBusy ∧
    ops.Inv ∧ ops.status.state ≠ .busy ∧ statusOf (ops.writeCmd 0x27) = some 0x23 ∧
    base.Inv ∧ base.status.state ≠ .busy ∧ faultOf (base.writeCmd 7) = some .unwrittenRead ∧
    statusOf (ops.writeCmd 7) = some 1 ∧
    statusOf ({ loaded (key 20) 7 with keyLen := ⟨21, true⟩ }.writeCmd 1) = some 0x43 ∧
    faultOf ({ loaded (key 19) 7 with keyLen := ⟨20, true⟩ }.writeCmd 1) = some .unwrittenRead ∧
    (loaded (key 20) 7).Inv ∧ (loaded (key 20) 7).status.state ≠ .busy ∧
    statusOf ((loaded (key 20) 7).writeCmd 1) = some 1 :=
  ⟨inv_exec, by decide, inv_ops, by decide, by decide, inv_base, by decide, by decide, by decide, by decide, by decide,
    inv_loaded, by decide, by decide⟩

/-- AcceptanceCheckOrder, the fault record: a host turn whose CMD write faults. -/
theorem witness_acceptanceFault : (driven base [.wr 0 7] [.host]).faulted = none ∧
    (driven base [.wr 0 7] [.host]).turn = .host ∧ faultOf ((driven base [] []).writeCmd 7) = some .unwrittenRead ∧
    recordOf (step (driven base [.wr 0 7] [.host])) = some .unwrittenRead := by decide

theorem inv_lenRange : State.Inv { loaded (key 20) 7 with keyLen := ⟨21, true⟩ } :=
  ⟨by decide, by decide, by decide, by decide, by decide, by decide, fun h => absurd h (by decide)⟩

theorem inv_unwrittenByte : State.Inv { loaded (key 19) 7 with keyLen := ⟨20, true⟩ } :=
  ⟨by decide, by decide, by decide, by decide, by decide, by decide, fun h => absurd h (by decide)⟩

/-- ErrorResponse, its clauses about steps: a step that raises an error, and an engine turn in ERROR. -/
theorem witness_errorResponse : (driven ops [.wr 0 0x27] [.host]).Inv ∧
    statusOf (step (driven ops [.wr 0 0x27] [.host])) = some 0x23 ∧ ops.status.word ≠ 0x23 ∧
    (driven erred [] [.engine]).status.state = .error ∧ (driven erred [] [.engine]).turn = .engine ∧
    statusOf (step (driven erred [] [.engine])) = some 0x23 :=
  ⟨inv_driven inv_ops _ _, by decide, by decide, rfl, rfl, by decide⟩

/-! ### The commands -/

/-- The primitive and stage commands, the rotates at the ends of their ranges. -/
def stages : List Instr := [.rotl32 1, .rotl32 31, .rotl64 1, .rotl64 63, .scramble32, .fmix32, .fmix64, .mix32, .tail32,
  .fin32, .mix64, .tail64, .fin64, .mix86, .tail86, .fin86]

/-- AcceptsWith, of every primitive and stage command: an idle block with the registers written, and one with none
written. -/
theorem witness_accepts : ops.eng.phase = .idle ∧ base.eng.phase = .idle ∧ stages.all (fun i => i.reads.all ops.written) =
    true ∧ stages.all (fun i => i.reads.any fun r => base.written r == false) = true ∧
    stages.all (fun i => statusOf (exec i ops) == some 1) = true := by decide

/-- CompletesWith, of every primitive and stage command: a state in EXEC that completes. -/
theorem witness_completes : stages.all (fun i => (running ops i .exec).eng.phase == .exec &&
    (running ops i .exec).eng.cmd == i && statusOf (exec i (running ops i .exec)) == some 2) = true := by decide

/-- Rotl32Command and Rotl64Command: the amounts that are rejected, and a word with reserved bits. -/
theorem witness_rotates : [0, 32, 63].all (fun (r : BitVec 6) => statusOf (exec (.rotl32 r) base) == some 0x33) = true ∧
    statusOf (exec (.rotl64 0) base) = some 0x33 ∧ opField 0xFE4 = 0x04 ∧ reservedBits 0xFE4 ≠ 0 ∧
    opField 0x825 = 0x05 ∧ reservedBits 0x825 ≠ 0 := by decide

/-- EncodedAs: another word with the same `op`. -/
theorem witness_encodedAs : opField 0x27 = opField 0x07 ∧ (0x27 : U32) ≠ 0x07 := by decide

/-- Tail32Command: two words that agree in the bytes that count, at both ends of `t`. -/
theorem witness_tail32 : (∀ i, i < 8 * 3 → (0xFF636261 : U32).getLsbD i = (0x00636261 : U32).getLsbD i) ∧
    (∀ i, i < 8 * 0 → (0xFF636261 : U32).getLsbD i = (0 : U32).getLsbD i) := by decide

/-- Tail64Command: two k2 that agree in 7 bytes. -/
theorem witness_tail64 : (0xFF00000000000001 : U64).setWidth 56 = (0x0000000000000001 : U64).setWidth 56 := by decide

/-- Mix86Command: two k1 that differ give lanes 1 and 4 that differ. -/
theorem witness_mix86 : (mix86 (Quad.all 0) ⟨1, 0, 0, 0⟩).q0 ≠ (mix86 (Quad.all 0) (Quad.all 0)).q0 ∧
    (mix86 (Quad.all 0) ⟨1, 0, 0, 0⟩).q3 ≠ (mix86 (Quad.all 0) (Quad.all 0)).q3 := by decide

/-- AcceptsHash: the four cases (see also witness_acceptance). -/
theorem witness_acceptsHash : [Instr.hash32, .hash128X64, .hash128X86].all (fun i =>
    faultOf (exec i base) == some .unwrittenRead &&
    statusOf (exec i { loaded (key 20) 7 with keyLen := ⟨21, true⟩ }) == some 0x43 &&
    faultOf (exec i { loaded (key 19) 7 with keyLen := ⟨20, true⟩ }) == some .unwrittenRead &&
    statusOf (exec i (loaded (key 20) 7)) == some 1 && statusOf (exec i (loaded [] 7)) == some 1) = true := by decide

/-- The hypotheses of the engine steps, of each full hash, phase and length up to 20. -/
theorem witness_inPhase (i : Instr) (phase : Phase) (blk n : Nat) (h : n ≤ 20) :
    InPhase (running (loaded (key n) 7) i phase (blk := blk)) i phase (key n) :=
  ⟨rfl, rfl, (holds_key n h 7).congr rfl rfl rfl⟩

/-- BLOCK's counter: the first and the last block of 20 bytes. -/
theorem witness_block : 4 < (key 20).length / 4 ∧ 0 < (key 20).length / 16 ∧ 0 < (key 4).length / 4 := by decide

/-- Hash32Laws (c): a buffer that differs only past the key. -/
theorem witness_hash32Laws : InPhase (running (loaded (key 5) 7) .hash32 .init) .hash32 .init (key 5) ∧
    (∀ a, a < (key 5).length → (bufOf (key 7)).read a = (running (loaded (key 5) 7) .hash32 .init).buf.read a) ∧
    (bufOf (key 7)).read 6 ≠ (running (loaded (key 5) 7) .hash32 .init).buf.read 6 :=
  ⟨witness_inPhase .hash32 .init 0 5 (by decide), by decide, by decide⟩

/-- PrimitiveLaws (c): the ends of the two clauses. -/
theorem witness_rotations : (1 + 30 ≤ 31 ∧ rotl32 (rotl32 0x12345678 1) 30 = rotl32 0x12345678 31) ∧
    (31 + 1 = 32 ∧ rotl32 (rotl32 0x12345678 31) 1 = 0x12345678) ∧
    (63 + 1 = 64 ∧ rotl64 (rotl64 0x0123456789ABCDEF 63) 1 = 0x0123456789ABCDEF) := by decide

/-- RotateMovesBits: the top bit rotated by the least and the greatest amount. -/
theorem witness_moves : (rotl32 0x80000000 1).getLsbD ((31 + 1) % 32) = true ∧
    (rotl64 0x8000000000000000 63).getLsbD ((63 + 63) % 64) = true := by decide

/-- Hash128X86Laws (d): keys of 1 and 4 bytes. -/
theorem witness_x86Laws : (key 1).length = 1 ∧ (key 4).length = 4 ∧
    (hash128X86 (key 4) 0).extractLsb' 32 32 = (hash128X86 (key 4) 0).extractLsb' 96 32 := by decide

/-- MixedWidthReads: the last 8 bytes of the buffer, and a tail of none and of all of them. -/
theorem witness_mixed : (loaded (key 20) 7).memRead 12 8 = .ok 0x131211100F0E0D0C ∧
    (loaded (key 20) 7).memRead 12 0 = .ok 0 ∧ (loaded (key 20) 7).memRead 16 4 = .ok 0x13121110 := ⟨rfl, rfl, rfl⟩

/-- SignedReading: the two values at the boundary. -/
theorem witness_signed : toSigned32 0x7FFFFFFF = 2147483647 ∧ toSigned32 0x80000000 = -2147483648 := by decide

/-! ### The whole machine -/

/-- StepRunsDecodedCommand: a host turn with a CMD write and an engine turn. -/
theorem witness_step : (driven ops [.wr 0 7] []).faulted = none ∧ (driven ops [.wr 0 7] []).turn = .host ∧
    (driven ops [.wr 0 7] []).status.state ≠ .busy ∧ decoded 7 = some .fmix32 ∧
    (driven (running ops .fmix32 .exec) [] []).turn = .engine ∧
    (driven (running ops .fmix32 .exec) [] []).status.state = .busy := by decide

/-- CommandFrame and StepKeepsInvariant: a next state from acceptance and from every phase. -/
theorem witness_frame : statusOf (exec .fmix32 ops) = some 1 ∧ statusOf (exec .fmix32 (running ops .fmix32 .exec)) = some 2 ∧
    [(Phase.init, 0, 1), (.block, 0, 1), (.tail, 1, 1), (.final, 1, 2)].all (fun ((p, b, st) : Phase × Nat × U32) =>
      statusOf (exec .hash128X86 (running (loaded (key 20) 7) .hash128X86 p (blk := b))) == some st) = true := by decide

theorem witness_stepKeeps : (driven (running ops .fmix32 .exec) [.wait] [.engine]).Inv ∧
    statusOf (step (driven (running ops .fmix32 .exec) [.wait] [.engine])) = some 2 :=
  ⟨inv_driven inv_exec _ _, by decide⟩

/-- AcceptedCommandNeverFails: a rejected word, and a running command in each phase. -/
theorem witness_neverFails : ops.Inv ∧ statusOf (ops.writeCmd 0x27) = some 0x23 ∧ (running ops .fmix32 .exec).Inv ∧
    (running (loaded (key 20) 7) .hash128X86 .init (blk := 0)).Inv ∧
    (running (loaded (key 20) 7) .hash128X86 .block (blk := 0)).Inv ∧
    (running (loaded (key 20) 7) .hash128X86 .tail (blk := 1)).Inv ∧
    (running (loaded (key 20) 7) .hash128X86 .final (blk := 1)).Inv :=
  ⟨inv_ops, by decide, inv_exec, inv_init, inv_block, inv_tail, inv_final⟩

/-- EngineStepCounts: a tail of no bytes, and an accepted CMD write of each length rule, from IDLE as after reset. -/
theorem witness_counts : (running (loaded (key 16) 7) .hash128X64 .tail (blk := 1)).keyLen.value.toNat %
      blockBytes .hash128X64 = 0 ∧
    statusOf (exec .hash128X64 (running (loaded (key 16) 7) .hash128X64 .tail (blk := 1))) = some 1 ∧
    (loaded (key 20) 7).Inv ∧ (loaded (key 20) 7).status.state = .idle ∧
    [(Instr.hash32, 1), (.hash128X64, 2), (.hash128X86, 3)].all (fun ((i, w) : Instr × U32) =>
      decoded w == some i && statusOf ((loaded (key 20) 7).writeCmd w) == some 1) = true ∧
    ops.Inv ∧ decoded 7 = some .fmix32 ∧ statusOf (ops.writeCmd 7) = some 1 :=
  ⟨by decide, by decide, inv_loaded, rfl, by decide, inv_ops, by decide, by decide⟩

/-- EngineCompletesUnderFairSchedule: a running command, the host still polling, nothing else scheduled. -/
theorem witness_fair : (driven (running ops .fmix32 .exec) [.wait] []).Inv ∧
    (driven (running ops .fmix32 .exec) [.wait] []).faulted = none ∧
    (driven (running ops .fmix32 .exec) [.wait] []).status.state = .busy ∧
    (driven (running ops .fmix32 .exec) [.wait] []).env.schedule = [] :=
  ⟨inv_driven inv_exec _ _, rfl, rfl, rfl⟩

/-- EngineCompletesUnderFairSchedule, the second clause: a host turn and an engine turn before the default. -/
theorem witness_fairList : (driven (running (loaded (key 20) 7) .hash128X86 .init) [.wait] [.host, .engine]).Inv ∧
    (driven (running (loaded (key 20) 7) .hash128X86 .init) [.wait] [.host, .engine]).status.state = .busy ∧
    Agent.platform ∉ (driven (running (loaded (key 20) 7) .hash128X86 .init) [.wait] [.host, .engine]).env.schedule ∧
    FaultFreeFor 2 (driven (running (loaded (key 20) 7) .hash128X86 .init) [.wait] [.host, .engine]) :=
  ⟨inv_driven inv_init _ _, rfl, by decide, ⟨rfl, _, rfl, rfl, _, rfl, rfl⟩⟩

/-- ResultDependsOnlyOnInputs: two states with the same inputs, and other lanes, results, operands and bytes past the
key. -/
theorem witness_inputs : AgreeOnInputs .hash32 (loaded (key 5) 7)
      { loaded (key 5) 7 with buf := bufOf (key 6), eng := ⟨.idle, .fmix32, Quad.all 9, 3⟩, opk := Quad.all ⟨4, true⟩ } ∧
    statusOf (exec .hash32 (loaded (key 5) 7)) = some 1 ∧
    statusOf (exec .hash32 { loaded (key 5) 7 with
      buf := bufOf (key 6), eng := ⟨.idle, .fmix32, Quad.all 9, 3⟩, opk := Quad.all ⟨4, true⟩ }) = some 1 :=
  ⟨⟨by decide, by decide⟩, by decide, by decide⟩

/-- InputsStableWhileBusy: a host turn and an engine turn of a busy block. -/
theorem witness_stable : (driven (running ops .fmix32 .exec) [.wr 4 9] [.host]).Inv ∧
    (driven (running ops .fmix32 .exec) [.wr 4 9] [.host]).turn ≠ .platform ∧
    recordOf (step (driven (running ops .fmix32 .exec) [.wr 4 9] [.host])) = some .writeWhileBusy ∧
    (driven (running (loaded (key 20) 7) .hash128X86 .init) [] []).Inv ∧
    statusOf (step (driven (running (loaded (key 20) 7) .hash128X86 .init) [] [])) = some 1 :=
  ⟨inv_driven inv_exec _ _, by decide, by decide, inv_driven inv_init _ _, by decide⟩

/-- ErrorPersists: a step that keeps the error, a reset, and CMD writes that accept and that reject with each kind of
code. -/
theorem witness_errorPersists : (driven erred [.wr 1 0] [.host]).Inv ∧ erred.status.state = .error ∧
    statusOf (step (driven erred [.wr 1 0] [.host])) = some 0x23 ∧
    statusOf (step (driven erred [] [.platform])) = some 0 ∧
    erred.Inv ∧ statusOf (erred.writeCmd 1) = some 1 ∧ statusOf (erred.writeCmd 0) = some 0x13 ∧
    decodeCheck 1 = .noError ∧ statusOf ({ erred with keyLen := ⟨21, true⟩ }.writeCmd 1) = some 0x43 :=
  ⟨inv_driven inv_erred _ _, rfl, by decide, by decide, inv_erred, by decide, by decide, by decide, by decide⟩

theorem inv_erredLong : State.Inv { erred with keyLen := ⟨21, true⟩ } :=
  ⟨by decide, by decide, by decide, by decide, by decide, by decide, fun h => absurd h (by decide)⟩

/-- StateTransitions: each of the three ways. -/
theorem witness_transitions : statusOf (step (driven (finished ops .fmix32 0x514E28B7) [] [.platform])) = some 0 ∧
    statusOf (step (driven (finished ops .fmix32 0x514E28B7) [.wr 0 7] [.host])) = some 1 ∧
    statusOf (step (driven (running ops .fmix32 .exec) [] [.engine])) = some 2 := by decide

/-- FaultedIsStuck: a faulted block, a step that faults, and a reset that clears the record. -/
theorem witness_faulted : (driven { ops with faulted := some .bufferRange } [] [.host]).turn ≠ .platform ∧
    faultOf (step (driven { ops with faulted := some .bufferRange } [] [.host])) = some .bufferRange ∧
    recordOf (step (driven ops [.wrb 20 0] [.host])) = some .bufferRange ∧
    statusOf (step (driven { ops with faulted := some .bufferRange } [] [.platform])) = some 0 := by decide

/-- WaitAndMov: a poll that goes on, one that ends, and a move of the whole register, of its top
bit, and of an unwritten and an unmapped one. -/
theorem witness_waitMov : (driven (running ops .fmix32 .exec) [.wait] [.host]).turn = .host ∧
    readOf (step (driven (running ops .fmix32 .exec) [.wait] [.host])) = some 1 ∧
    readOf (step (driven ops [.wait] [.host])) = some 0 ∧
    readOf (step (driven ops [.mov 8 4 63 0] [.host])) = some 1 ∧ base.status.state ≠ .busy ∧
    recordOf (step (driven base [.mov 8 4 63 0] [.host])) = some .unwrittenRead ∧
    recordOf (step (driven base [.mov 8 14 63 0] [.host])) = some .unmappedRegister ∧ fieldOf 0x8000000000000001 63 63 = 1 := by decide

/-- HostActionsStep: a turn of the host with each action, and with none. -/
theorem witness_actions : (driven ops [.rd 4] []).faulted = none ∧ (driven ops [.rd 4] []).turn = .host ∧
    readOf (step (driven ops [.rd 4] [])) = some 1 ∧ recordOf (step (driven ops [.rd 3] [])) = some .unwrittenRead ∧
    readOf (step (driven (loaded (key 20) 7) [.rdb 19] [])) = some 19 ∧
    recordOf (step (driven ops [.rdb 20] [])) = some .bufferRange ∧
    recordOf (step (driven ops [.wrb 19 1] [])) = none ∧ recordOf (step (driven ops [.wrb 20 1] [])) = some .bufferRange ∧
    recordOf (step (driven (running ops .fmix32 .exec) [.wrb 19 1] [.host])) = some .writeWhileBusy ∧ recordOf (step (driven ops [.wr 13 1] [])) = none ∧
    statusOf (step (driven ops [] [])) = some 0 := by decide

/-- BootSequenceNeverFaults: a full hash and a key that fills the buffer. -/
theorem witness_boot : Instr.hash128X64.fullHash = true ∧ (key 20).length ≤ (⟨20, 0⟩ : Config).bufBytes.toNat := by
  decide

end Sys2Proof.Tests
end

section
/-! PROOFS. The host's view of the block's registers: which register numbers are mapped (10_state.md R40), the fields of
STATUS (R23), and the result register (R28, R97). -/

namespace Sys2Proof.Machine

/-! ## Where an access faults -/

theorem Reg.ofNumber_eq_none_iff {n : Nat} : Reg.ofNumber n = none ↔ 14 ≤ n := by
  constructor
  · intro h
    by_contra hn
    interval_cases n <;> cases h
  · intro h
    obtain ⟨m, rfl⟩ := Nat.exists_eq_add_of_le' h
    rfl

/-- A host read of a mapped number: the busy check, then the written mark, then the value (R28, R29). -/
theorem State.hostRead_of_number {n : Nat} {r : Reg} (s : State) (hr : Reg.ofNumber n = some r) :
    s.hostRead n =
      if s.busy ∧ (r = .resLo ∨ r = .resHi) then .error .resultReadWhileBusy
      else if s.written r = false then .error .unwrittenRead
      else .ok (s.value r) := by
  simp only [State.hostRead, hr]

theorem State.readByte_error {s : State} {off : Nat} {f : Fault} (h : s.readByte off = .error f) :
    f = .bufferRange ∨ f = .unwrittenRead := by
  unfold State.readByte at h
  split at h
  · injection h with h
    exact .inl h.symm
  · split at h
    · injection h with h
      exact .inr h.symm
    · cases h

/-! ### A read of several key bytes faults only where one of its bytes does -/

theorem State.memRead_error {s : State} {off n : Nat} {f : Fault} (h : s.memRead off n = .error f) :
    ∃ a, s.readByte a = .error f := by
  induction n with
  | zero => cases h
  | succ n ih =>
    unfold State.memRead at h
    split at h
    case h_1 hv => cases h; exact ih hv
    case h_2 =>
      split at h <;> cases h
      exact ⟨off + n, ‹_›⟩

theorem State.memRead2_error {s : State} {a m b n : Nat} {f : Fault} (h : s.memRead2 a m b n = .error f) :
    ∃ off, s.readByte off = .error f := by
  unfold State.memRead2 at h
  split at h
  case h_1 hv => cases h; exact State.memRead_error hv
  case h_2 =>
    split at h <;> cases h
    exact State.memRead_error ‹_›

theorem State.memRead86_error {s : State} {off : Nat} {m : Fin 4 → Nat} {f : Fault}
    (h : s.memRead86 off m = .error f) : ∃ a, s.readByte a = .error f := by
  unfold State.memRead86 at h
  split at h
  case h_1 hv => cases h; exact State.memRead2_error hv
  case h_2 =>
    split at h <;> cases h
    exact State.memRead2_error ‹_›

section
variable {s : State} {f : Fault}

theorem hash32Block_error (h : hash32Block s = .error f) : ∃ a, s.readByte a = .error f := by
  unfold hash32Block at h
  split at h <;> cases h
  exact State.memRead_error ‹_›

theorem hash32Tail_error (h : hash32Tail s = .error f) : ∃ a, s.readByte a = .error f := by
  unfold hash32Tail at h
  split at h <;> cases h
  exact State.memRead_error ‹_›

theorem hash128X64Block_error (h : hash128X64Block s = .error f) : ∃ a, s.readByte a = .error f := by
  unfold hash128X64Block at h
  split at h <;> cases h
  exact State.memRead2_error ‹_›

theorem hash128X64Tail_error (h : hash128X64Tail s = .error f) : ∃ a, s.readByte a = .error f := by
  simp only [hash128X64Tail] at h
  split at h <;> cases h
  exact State.memRead2_error ‹_›

theorem hash128X86Block_error (h : hash128X86Block s = .error f) : ∃ a, s.readByte a = .error f := by
  unfold hash128X86Block at h
  split at h <;> cases h
  exact State.memRead86_error ‹_›

theorem hash128X86Tail_error (h : hash128X86Tail s = .error f) : ∃ a, s.readByte a = .error f := by
  unfold hash128X86Tail at h
  split at h <;> cases h
  exact State.memRead86_error ‹_›

end

/-! ### What a meaning, and a host write, can fault with -/

theorem State.running_fault {s : State} {i : Instr} {a : Answer} {f : Fault} (h : s.running i a = .fault f) :
    f = .writeWhileBusy ∨ a = .fault f := by
  unfold State.running at h
  split at h
  · exact .inr h
  · exact .inl (Host.Outcome.fault.inj h).symm

/-- The faults a meaning can end in: of acceptance, of a command that is not the running one, and of a key byte it
reads. -/
inductive ExecFault (s : State) : Fault → Prop where
  | unwritten : ExecFault s .unwrittenRead
  | busy : ExecFault s .writeWhileBusy
  | keyByte {f : Fault} (h : ∃ a, s.readByte a = .error f) : ExecFault s f

theorem ExecFault.ne_unmappedRegister {s : State} {f : Fault} (h : ExecFault s f) : f ≠ .unmappedRegister := by
  cases h with
  | unwritten => decide
  | busy => decide
  | keyByte h =>
    obtain ⟨a, ha⟩ := h
    obtain rfl | rfl := State.readByte_error ha <;> decide

theorem ExecFault.ofAccept {s : State} {i : Instr} {f : Fault} (h : s.accept i = .fault f) : ExecFault s f := by
  obtain ⟨rfl, -⟩ := State.accept_fault h
  exact .unwritten

/-- An engine step faults as what it runs does, or because another command is the running one. -/
theorem ExecFault.ofRunning {s : State} {i : Instr} {a : Answer} {f : Fault} (h : s.running i a = .fault f)
    (ha : a = .fault f → ExecFault s f) : ExecFault s f := by
  obtain rfl | h := State.running_fault h
  · exact .busy
  · exact ha h

theorem ExecFault.ofExecStep {s : State} {i : Instr} {v : U128} {f : Fault} (h : s.execStep i v = .fault f) :
    ExecFault s f := by
  unfold State.execStep at h
  split at h
  case h_1 => exact .ofAccept h
  all_goals exact .ofRunning h nofun

theorem ExecFault.ofRejectRotate {s : State} {i : Instr} {f : Fault} (h : s.rejectRotate i = .fault f) :
    ExecFault s f := by
  unfold State.rejectRotate at h
  split at h
  case h_1 => cases h
  all_goals exact .ofRunning h nofun

theorem ExecFault.ofHashStep {s : State} {i : Instr} {bs : Nat} {init : Quad U64}
    {block tail : Except Fault (Quad U64)} {final : U128} {f : Fault}
    (hb : block = .error f → ∃ a, s.readByte a = .error f) (ht : tail = .error f → ∃ a, s.readByte a = .error f)
    (h : s.hashStep i bs init block tail final = .fault f) : ExecFault s f := by
  unfold State.hashStep at h
  split at h
  case h_1 => exact .ofAccept h
  case h_4 => exact .ofRunning h fun h => .keyByte (hb (by cases block <;> cases h; rfl))
  case h_5 => exact .ofRunning h fun h => .keyByte (ht (by cases tail <;> cases h; rfl))
  all_goals exact .ofRunning h nofun

theorem exec_fault {i : Instr} {s : State} {f : Fault} (h : exec i s = .fault f) : ExecFault s f := by
  cases i with
  | hash32 => exact .ofHashStep hash32Block_error hash32Tail_error h
  | hash128X64 => exact .ofHashStep hash128X64Block_error hash128X64Tail_error h
  | hash128X86 => exact .ofHashStep hash128X86Block_error hash128X86Tail_error h
  | rotl32 amt =>
    simp only [Machine.exec, execRotl32] at h
    split at h
    · exact .ofExecStep h
    · exact .ofRejectRotate h
  | rotl64 amt =>
    simp only [Machine.exec, execRotl64] at h
    split at h
    · exact .ofExecStep h
    · exact .ofRejectRotate h
  | scramble32 | fmix32 | fmix64 | mix32 | tail32 | fin32 | mix64 | tail64 | fin64 | mix86 | tail86 | fin86 =>
    exact .ofExecStep h

theorem State.writeCmd_fault {s : State} {w : U32} {f : Fault} (h : s.writeCmd w = .fault f) :
    ExecFault { s with cmd := w } f := by
  unfold State.writeCmd at h
  split at h
  · cases h
    exact .busy
  · split at h
    · cases h
    · exact exec_fault h

theorem State.writeInput_fault {s : State} {r : Reg} {v : U64} {f : Fault} (h : s.writeInput r v = .fault f) :
    f = .writeWhileBusy := by
  unfold State.writeInput at h
  split at h
  · exact (Host.Outcome.fault.inj h).symm
  · cases h

/-! ## Mapped and unmapped register numbers -/

theorem State.hostRead_unmapped_iff {s : State} {n : Nat} :
    s.hostRead n = .error .unmappedRegister ↔ Reg.ofNumber n = none := by
  cases hr : Reg.ofNumber n with
  | none => simp [State.hostRead, hr]
  | some r =>
    rw [s.hostRead_of_number hr]
    split_ifs <;> simp

theorem State.hostWrite_unmapped_iff {s : State} {n : Nat} {v : U64} :
    s.hostWrite n v = .fault .unmappedRegister ↔ Reg.ofNumber n = none := by
  cases hr : Reg.ofNumber n with
  | none => simp [State.hostWrite, hr]
  | some r =>
    simp only [State.hostWrite, hr, reduceCtorEq, iff_false]
    cases r with
    | cmd => exact fun h => (State.writeCmd_fault h).ne_unmappedRegister rfl
    | status | resLo | resHi => exact nofun
    | keyLen | seed | oph | opk => exact fun h => nomatch State.writeInput_fault h

/-- Settles O9: an access answers UnmappedRegister exactly when its number names no register. -/
theorem unmappedRegistersFault : Obligations.UnmappedRegistersFault := by
  intro s n v
  rw [Ne, Ne, State.hostRead_unmapped_iff, State.hostWrite_unmapped_iff, Reg.ofNumber_eq_none_iff]
  omega

/-! ## STATUS -/

/-- STATE has the bits from 0 and ERR the bits from 4 (R23). -/
theorem Status.word_getLsbD (st : Status) (i : Nat) :
    st.word.getLsbD i =
      (!decide (i < 4) && (errValue st.err).getLsbD (i - 4) || (RunState.code st.state).getLsbD i) := by
  by_cases hi : i < 32
  · simp [Status.word, hi]
  · rw [BitVec.getLsbD_of_ge _ _ (by omega), BitVec.getLsbD_of_ge (errValue _) _ (by omega),
      BitVec.getLsbD_of_ge (RunState.code _) _ (by omega)]
    simp

theorem Status.word_stateField (st : Status) : st.word.extractLsb' 0 2 = RunState.code st.state := by
  ext i hi
  have hlt : i < 4 := by omega
  simp [Status.word_getLsbD, hlt, BitVec.getLsbD_eq_getElem hi]

theorem Status.word_errField (st : Status) : st.word.extractLsb' 4 4 = errValue st.err := by
  ext i hi
  simp [Status.word_getLsbD, BitVec.getLsbD_of_ge (RunState.code _) (4 + i) (by omega), BitVec.getLsbD_eq_getElem hi]

theorem Status.word_gap (st : Status) : st.word.extractLsb' 2 2 = 0 := by
  ext i hi
  have hlt : 2 + i < 4 := by omega
  simp [Status.word_getLsbD, hlt]

theorem Status.word_high (st : Status) : st.word.extractLsb' 8 24 = 0 := by
  ext i hi
  simp [Status.word_getLsbD, BitVec.getLsbD_of_ge (errValue _) (8 + i - 4) (by omega),
    BitVec.getLsbD_of_ge (RunState.code _) (8 + i) (by omega)]

/-- Settles O10: the fields are the word's bits, and ERR is NONE outside ERROR by the invariant. -/
theorem statusWordFields : Obligations.StatusWordFields := by
  intro s hs
  rw [s.status.word_stateField, s.status.word_gap, s.status.word_errField, s.status.word_high]
  refine ⟨by cases s.status.state <;> rfl, rfl, by cases s.status.err <;> rfl, rfl, fun hne => ?_, ?_, fun v => rfl⟩
  · have herr : s.status.err = .noError := not_not.mp (mt hs.errCode.mp hne)
    rw [herr]
    rfl
  · rw [s.hostRead_of_number (r := .status) rfl]
    simp [State.written, State.value]

/-! ## RES -/

section
variable {s : State} {n : Nat} {r : Reg} (hr : Reg.ofNumber n = some r)
include hr

theorem State.hostRead_result_busy (hb : s.status.state = .busy) (hh : r = .resLo ∨ r = .resHi) :
    s.hostRead n = .error .resultReadWhileBusy := by
  rw [s.hostRead_of_number hr, if_pos ⟨State.busy_iff.mpr hb, hh⟩]

theorem State.hostRead_unwritten (hb : s.status.state ≠ .busy) (hw : s.written r = false) :
    s.hostRead n = .error .unwrittenRead := by
  rw [s.hostRead_of_number hr, if_neg fun h => hb (State.busy_iff.mp h.1), if_pos hw]

theorem State.hostRead_written (hb : s.status.state ≠ .busy) (hw : s.written r = true) :
    s.hostRead n = .ok (s.value r) := by
  rw [s.hostRead_of_number hr, if_neg fun h => hb (State.busy_iff.mp h.1), if_neg (by simp [hw])]

end

/-- Only a completion step writes RES (R28, R36). -/
theorem exec_res {i : Instr} {s t : State} (h : exec i s = .next t) :
    t.res = s.res ∨ ((s.eng.phase = .exec ∨ s.eng.phase = .final) ∧ ∃ v, t = s.complete v) := by
  cases exec_next h with
  | badRotate hp hw => exact .inl rfl
  | accept hp hw ha =>
    obtain ⟨-, ⟨-, rfl⟩ | ⟨-, -, rfl⟩ | ⟨-, -, -, rfl⟩⟩ := State.accept_next ha <;> exact .inl rfl
  | exec v hp hc hf => exact .inr ⟨.inl hp, v, rfl⟩
  | init l hp hc hf => exact .inl rfl
  | block l hp hc hf => exact .inl rfl
  | tail l hp hc hf => exact .inl rfl
  | final v hp hc hf => exact .inr ⟨.inr hp, v, rfl⟩

/-- A CMD write to an idle engine accepts or rejects, and leaves RES. -/
theorem State.writeCmd_res {s t : State} {w : U32} (hp : s.eng.phase = .idle) (h : s.writeCmd w = .next t) :
    t.res = s.res := by
  obtain ⟨-, ⟨c, -, rfl⟩ | ⟨i, -, hi⟩⟩ := State.writeCmd_next h
  · rfl
  · obtain hr | ⟨hq, -⟩ := exec_res hi
    · exact hr
    · simp [hp] at hq

/-- No host action writes RES, where an engine that is not busy is idle (R31). -/
theorem ActionNext.res {s t : State} {a : HostAction} (hp : s.busy = false → s.eng.phase = .idle)
    (h : ActionNext s a t) : t.res = s.res := by
  cases h with
  | command h => exact State.writeCmd_res (hp (State.writeCmd_next h).1) h
  | input r hn hr hb => exact s.setReg_res r _
  | ignored hn => rfl
  | byte ho hb => rfl
  | env e ha he => rfl

/-- A step writes RES by reset or as a completion step, and in no other way (R28). -/
theorem step_res {s t : State} (hs : s.Inv) (h : step s = .next t) (hne : t.res ≠ s.res) :
    s.turn = .platform ∨
      (s.turn = .engine ∧ s.busy = true ∧ (s.eng.phase = .exec ∨ s.eng.phase = .final) ∧
        ∃ v, t = s.popTurn.complete v) := by
  have hidle : s.busy = false → s.eng.phase = .idle := fun hb => hs.phaseIdle.mpr (State.not_busy_iff.mp hb)
  cases step_next h with
  | reset ht => exact .inl ht
  | fault f hf ht => exact absurd rfl hne
  | engine hf ht hb h =>
    obtain hr | ⟨hp, hv⟩ := exec_res h
    · exact absurd hr hne
    · exact .inr ⟨ht, hb, hp, hv⟩
  | rest hf ht hb => exact absurd rfl hne
  | noAction hf ht hp => exact absurd rfl hne
  | host hf ht hp h => exact absurd (h.res (s := s.popTurn.popAction) hidle) hne

/-! ### The value a completion step writes -/

section
variable {s t : State} {i : Instr} (hp : s.eng.phase = .exec ∨ s.eng.phase = .final)
include hp

theorem State.execStep_res {v : U128} (h : s.execStep i v = .next t) : t.res.value = v := by
  obtain ⟨hq, -⟩ | ⟨-, -, rfl⟩ := State.execStep_next h
  · simp [hq] at hp
  · rfl

theorem State.rejectRotate_ne_next : s.rejectRotate i ≠ .next t := by
  intro h
  simp [(State.rejectRotate_next h).1] at hp

theorem State.hashStep_res {bs : Nat} {init : Quad U64} {block tail : Except Fault (Quad U64)} {final : U128}
    (h : s.hashStep i bs init block tail final = .next t) : t.res.value = final := by
  obtain ⟨hq, -⟩ | ⟨-, ⟨hq, -⟩ | ⟨hq, -⟩ | ⟨hq, -⟩ | ⟨-, rfl⟩⟩ := State.hashStep_next h
  · simp [hq] at hp
  · simp [hq] at hp
  · simp [hq] at hp
  · simp [hq] at hp
  · rfl

/-- The commands with a 32-bit result complete with a zero-extended 32-bit value (R97). -/
theorem exec_res_of_32bit (hi : i.opcode ∈ [0x01, 0x04, 0x06, 0x07, 0x09, 0x0A, 0x0B]) (h : exec i s = .next t) :
    ∃ v : U32, t.res.value = v.setWidth 128 := by
  cases i with
  | hash32 => exact ⟨_, State.hashStep_res hp h⟩
  | rotl32 amt =>
    simp only [Machine.exec, execRotl32] at h
    split at h
    · exact ⟨_, State.execStep_res hp h⟩
    · exact absurd h (State.rejectRotate_ne_next hp)
  | scramble32 | fmix32 | mix32 | tail32 | fin32 => exact ⟨_, State.execStep_res hp h⟩
  | hash128X64 | hash128X86 | rotl64 | fmix64 | mix64 | tail64 | fin64 | mix86 | tail86 | fin86 =>
    simp [Instr.opcode] at hi

/-- The commands with a 64-bit result complete with a zero-extended 64-bit value (R97). -/
theorem exec_res_of_64bit (hi : i.opcode ∈ [0x05, 0x08]) (h : exec i s = .next t) :
    ∃ v : U64, t.res.value = v.setWidth 128 := by
  cases i with
  | rotl64 amt =>
    simp only [Machine.exec, execRotl64] at h
    split at h
    · exact ⟨_, State.execStep_res hp h⟩
    · exact absurd h (State.rejectRotate_ne_next hp)
  | fmix64 => exact ⟨_, State.execStep_res hp h⟩
  | hash32 | hash128X64 | hash128X86 | rotl32 | scramble32 | fmix32 | mix32 | tail32 | fin32 | mix64 | tail64 | fin64
  | mix86 | tail86 | fin86 =>
    simp [Instr.opcode] at hi

end

/-- Zero-extension leaves the bits above the value's width zero. -/
theorem extractLsb'_setWidth_above {w n : Nat} (v : BitVec w) (k : Nat) : (v.setWidth n).extractLsb' w k = 0 := by
  ext j hj
  simp

/-- Settles O12: the reads follow the host read's check order, a step writes RES only as `step_res` says, and what a
completion step writes is zero-extended from the width of the command's result. -/
theorem resultRegister : Obligations.ResultRegister := by
  have hlo : Reg.ofNumber 12 = some .resLo := rfl
  have hhi : Reg.ofNumber 13 = some .resHi := rfl
  refine ⟨fun s hb hw => ⟨State.hostRead_written hlo hb hw, State.hostRead_written hhi hb hw⟩,
    fun s hb hw => ⟨State.hostRead_unwritten hlo hb hw, State.hostRead_unwritten hhi hb hw⟩,
    fun s hb => ⟨State.hostRead_result_busy hlo hb (.inl rfl), State.hostRead_result_busy hhi hb (.inr rfl)⟩,
    fun s v => ⟨rfl, rfl⟩, fun s t hs h hne => ?_, fun s t h hp => ⟨fun hi => ?_, fun hi => ?_⟩⟩
  · obtain ht | ⟨ht, hb, hp, v, rfl⟩ := step_res hs h hne
    · exact .inl ht
    · exact .inr ⟨ht, State.busy_iff.mp hb, hp, rfl, rfl⟩
  · obtain ⟨v, hv⟩ := exec_res_of_32bit hp hi h
    rw [hv, extractLsb'_setWidth_above]
  · obtain ⟨v, hv⟩ := exec_res_of_64bit hp hi h
    rw [hv, extractLsb'_setWidth_above]

end Sys2Proof.Machine
end

section
/-! PROOFS. The host's access to the key buffer: what a byte read and a byte write answer in each case of their check
order (20_memory.md R64, R65), and the frame of a byte write. -/

namespace Sys2Proof.Machine

/-! ## A byte read -/

theorem State.readByte_of_ge {s : State} {off : Nat} (ho : s.cfg.bufBytes.toNat ≤ off) :
    s.readByte off = .error .bufferRange := by
  rw [State.readByte, if_pos ho]

theorem State.readByte_of_unwritten {s : State} {off : Nat} (ho : off < s.cfg.bufBytes.toNat)
    (hr : s.buf.read off = none) : s.readByte off = .error .unwrittenRead := by
  rw [State.readByte, if_neg (Nat.not_le_of_lt ho), hr]

/-- A byte read depends only on BUF_BYTES and on the byte it reads. -/
theorem State.readByte_congr {s t : State} {off : Nat} (hc : t.cfg = s.cfg) (hr : t.buf.read off = s.buf.read off) :
    t.readByte off = s.readByte off := by
  rw [State.readByte, State.readByte, hc, hr]

theorem State.readByte_setByte_same {s : State} {off : Nat} {v : Byte} (ho : off < s.cfg.bufBytes.toNat) :
    (s.setByte off v).readByte off = .ok v :=
  State.readByte_eq_ok.mpr ⟨ho, Memory.read_write_same s.buf off v⟩

theorem State.readByte_setByte_other (s : State) {off a : Nat} (v : Byte) (ha : a ≠ off) :
    (s.setByte off v).readByte a = s.readByte a :=
  State.readByte_congr rfl (Memory.read_write_other s.buf v ha)

/-! ## A byte write -/

theorem State.hostWriteByte_of_ge {s : State} {off : Nat} {v : Byte} (ho : s.cfg.bufBytes.toNat ≤ off) :
    s.hostWriteByte off v = .fault .bufferRange := by
  rw [State.hostWriteByte, if_pos ho]

theorem State.hostWriteByte_of_busy {s : State} {off : Nat} {v : Byte} (ho : off < s.cfg.bufBytes.toNat)
    (hb : s.status.state = .busy) : s.hostWriteByte off v = .fault .writeWhileBusy := by
  rw [State.hostWriteByte, if_neg (Nat.not_le_of_lt ho), if_pos (State.busy_iff.mpr hb)]

theorem State.hostWriteByte_of_not_busy {s : State} {off : Nat} {v : Byte} (ho : off < s.cfg.bufBytes.toNat)
    (hb : s.status.state ≠ .busy) : s.hostWriteByte off v = .next (s.setByte off v) := by
  rw [State.hostWriteByte, if_neg (Nat.not_le_of_lt ho), if_neg (mt State.busy_iff.mp hb)]

/-- Settles O15: each clause is one case of the two check orders, and the write's next state is `setByte`. -/
theorem keyByteAccess : Obligations.KeyByteAccess := by
  intro s off v
  refine ⟨fun ho => ⟨State.hostWriteByte_of_ge ho, State.readByte_of_ge ho⟩, State.hostWriteByte_of_busy,
    fun ho hb => ?_, State.readByte_of_unwritten, fun ho b hr => State.readByte_eq_ok.mpr ⟨ho, hr⟩⟩
  exact ⟨s.setByte off v, State.hostWriteByte_of_not_busy ho hb, rfl, State.readByte_setByte_same ho,
    fun a ha => s.readByte_setByte_other v ha⟩

end Sys2Proof.Machine
end

section
/-! PROOFS. What a CMD write makes of a word: the decoder's answer by the word's fields (30_encoding.md R90 to R94,
R98), the rejection of a word with a field out of range, and where the write of any word leaves the block. -/

namespace Sys2Proof

/-! ## The decoder's answer, field by field -/

/-- The operation map has the rows 0x01 to 0x11 (R91, R98). -/
theorem rowOf_eq_none_iff {op : BitVec 5} {amt : BitVec 6} :
    rowOf op amt = none ↔ op.toNat = 0x00 ∨ 0x12 ≤ op.toNat := by
  unfold rowOf
  split
  case h_18 =>
    simp only [true_iff, imp_false] at *
    omega
  all_goals
    simp only [reduceCtorEq, false_iff]
    omega

theorem rowOf_eq_some {op : BitVec 5} (amt : BitVec 6) (ho : 0x01 ≤ op.toNat ∧ op.toNat ≤ 0x11) :
    ∃ i, rowOf op amt = some i :=
  Option.ne_none_iff_exists'.mp fun h => by
    have hout := rowOf_eq_none_iff.mp h
    omega

/-- Only the rotates use `amt` (R92). -/
theorem rowOf_amount {op : BitVec 5} {amt : BitVec 6} {i : Instr} (h : rowOf op amt = some i)
    (h₄ : op.toNat ≠ 0x04) (h₅ : op.toNat ≠ 0x05) : i.amount = 0 := by
  unfold rowOf at h
  split at h
  case h_4 he => exact absurd he h₄
  case h_5 he => exact absurd he h₅
  case h_18 => cases h
  all_goals
    cases h
    rfl

section
variable {w : U32}

theorem decode_reservedOp (ho : (opField w).toNat = 0x00 ∨ 0x12 ≤ (opField w).toNat) :
    decode w = .error .illegalOp := by
  simp only [decode, rowOf_eq_none_iff.mpr ho]

theorem decode_reservedBits (ho : 0x01 ≤ (opField w).toNat ∧ (opField w).toNat ≤ 0x11) (hr : reservedBits w ≠ 0) :
    decode w = .error .reservedField := by
  obtain ⟨i, hi⟩ := rowOf_eq_some (amtField w) ho
  simp only [decode, hi, if_pos hr]

theorem decode_unusedAmount (ho : 0x01 ≤ (opField w).toNat ∧ (opField w).toNat ≤ 0x11)
    (h₄ : (opField w).toNat ≠ 0x04) (h₅ : (opField w).toNat ≠ 0x05) (ha : amtField w ≠ 0) :
    decode w = .error .reservedField := by
  obtain ⟨i, hi⟩ := rowOf_eq_some (amtField w) ho
  rw [← rowOf_amount hi h₄ h₅] at ha
  simp only [decode, hi, if_pos ha, ite_self]

/-- The decoder keeps a rotate by any amount (log entry 11). -/
theorem decode_rotl32 (ho : (opField w).toNat = 0x04) (hr : reservedBits w = 0) :
    decode w = .ok (.rotl32 (amtField w)) := by
  simp [decode, rowOf, ho, hr, Instr.amount]

/-- The decoder keeps a rotate by any amount (log entry 11). -/
theorem decode_rotl64 (ho : (opField w).toNat = 0x05) (hr : reservedBits w = 0) :
    decode w = .ok (.rotl64 (amtField w)) := by
  simp [decode, rowOf, ho, hr, Instr.amount]

end

end Sys2Proof

namespace Sys2Proof.Machine

/-! ## A CMD write to a block that is not busy -/

section
variable {s : State} {w : U32} (hb : s.status.state ≠ .busy)
include hb

theorem State.writeCmd_of_decode_error {c : ErrCode} (hd : decode w = .error c) :
    s.writeCmd w = .next (Claims.rejected { s with cmd := w } c) := by
  simp only [State.writeCmd, if_neg (mt State.busy_iff.mp hb), hd]
  rfl

theorem State.writeCmd_of_decode_ok {i : Instr} (hd : decode w = .ok i) :
    s.writeCmd w = exec i { s with cmd := w } := by
  simp only [State.writeCmd, if_neg (mt State.busy_iff.mp hb), hd]

/-- A rotate by an amount out of range, on an idle engine: BAD_ROTATE, before any register is read (R92, R94). -/
theorem State.writeCmd_of_decode_illFormed (hp : s.eng.phase = .idle) {i : Instr} (hd : decode w = .ok i)
    (hw : i.wf = false) : s.writeCmd w = .next (Claims.rejected { s with cmd := w } .badRotate) := by
  rw [State.writeCmd_of_decode_ok hb hd, exec_idle (s := { s with cmd := w }) hp, hw]
  rfl

end

/-! ## Where a CMD write leaves the block: no word is a no-op -/

theorem State.accept_busy_or_error {s t : State} {i : Instr} (h : s.accept i = .next t) :
    t.status.state = .busy ∨ t.status.state = .error := by
  obtain ⟨-, ⟨-, rfl⟩ | ⟨-, -, rfl⟩ | ⟨-, -, -, rfl⟩⟩ := State.accept_next h
  · exact .inl rfl
  · exact .inr rfl
  · exact .inl rfl

theorem exec_idle_busy_or_error {s t : State} {i : Instr} (hp : s.eng.phase = .idle) (h : exec i s = .next t) :
    t.status.state = .busy ∨ t.status.state = .error := by
  rw [exec_idle hp] at h
  split at h
  · exact State.accept_busy_or_error h
  · cases h
    exact .inr rfl

theorem State.writeCmd_busy_or_error {s t : State} {w : U32} (hp : s.eng.phase = .idle)
    (h : s.writeCmd w = .next t) : t.status.state = .busy ∨ t.status.state = .error := by
  obtain ⟨-, ⟨c, -, rfl⟩ | ⟨i, -, hi⟩⟩ := State.writeCmd_next h
  · exact .inr rfl
  · exact exec_idle_busy_or_error (s := { s with cmd := w }) hp hi

/-- Settles O3: each clause is the decoder's answer on such a word, which the CMD write rejects or runs; the last is
acceptance's two outcomes. -/
theorem malformedWordsRejected : Obligations.MalformedWordsRejected := by
  intro s w hb hp op amt high out
  refine ⟨fun ho => ?_, fun ho hr => ?_, fun ho h₄ h₅ ha => ?_, fun ho hr ha => ?_, fun ho hr ha => ?_,
    fun ho hr _ => ?_, fun ho hr _ => ?_, fun t => State.writeCmd_busy_or_error hp⟩
  · exact State.writeCmd_of_decode_error hb (decode_reservedOp ho)
  · exact State.writeCmd_of_decode_error hb (decode_reservedBits ho hr)
  · have ha' : amtField w ≠ 0 := fun h => ha (congrArg BitVec.toNat h)
    exact State.writeCmd_of_decode_error hb (decode_unusedAmount ho h₄ h₅ ha')
  · have hw : (Instr.rotl32 (amtField w)).wf = false := decide_eq_false fun h : 1 ≤ amt ∧ amt ≤ 31 => by omega
    exact State.writeCmd_of_decode_illFormed hb hp (decode_rotl32 ho hr) hw
  · have hw : (Instr.rotl64 (amtField w)).wf = false := decide_eq_false fun h : 1 ≤ amt ∧ amt ≤ 63 => by omega
    exact State.writeCmd_of_decode_illFormed hb hp (decode_rotl64 ho hr) hw
  · exact State.writeCmd_of_decode_ok hb (decode_rotl32 ho hr)
  · exact State.writeCmd_of_decode_ok hb (decode_rotl64 ho hr)

end Sys2Proof.Machine
end

section
/-! PROOFS. The frame every command with no amount shares: its one command word (30_encoding.md R92, R93), and, for the
commands that are no full hash, acceptance and the EXEC step (10_state.md R35, R36); then the primitive commands
SCRAMBLE32, FMIX32 and FMIX64 (40_primitives.md R127 to R129). -/

namespace Sys2Proof.Machine

open Claims

/-! ## The command word -/

/-- A word with no reserved bit set is its two fields (R90). -/
theorem eq_enc_of_reservedBits_zero {w : U32} (hr : reservedBits w = 0) : w = enc (opField w) (amtField w) := by
  have hhigh : ∀ j, 11 ≤ j → w.getLsbD j = false := fun j hj => by
    by_cases hw : j < 32
    · have hbit := congrArg (BitVec.getLsbD · (j - 11)) hr
      simpa [reservedBits, show j - 11 < 21 by omega, Nat.add_sub_cancel' hj] using hbit
    · exact BitVec.getLsbD_of_ge w j (by omega)
  refine BitVec.eq_of_getLsbD_eq fun j hj => ?_
  obtain h | h | h : j < 5 ∨ (5 ≤ j ∧ j < 11) ∨ 11 ≤ j := by omega
  · simp [enc, opField, amtField, h, hj]
  · simp [enc, opField, amtField, hj, show ¬ j < 5 by omega, show j - 5 < 6 by omega, Nat.add_sub_cancel' h.1]
  · rw [hhigh j h]
    simp [enc, opField, amtField, show ¬ j < 5 by omega, show ¬ j - 5 < 6 by omega]

theorem rowOf_opcode (i : Instr) : rowOf i.opcode i.amount = some i := by
  cases i <;> rfl

section
variable {i : Instr} (hs : Laws.CanonicalWord.Statement i)
include hs

theorem decode_encode_of_canonical : decode (encode i) = .ok i := by
  obtain ⟨hr, ho, ha, -⟩ := hs
  simp [decode, ho, ha, hr, rowOf_opcode]

/-- A command that uses no amount has one word: any other with its `op` sets a reserved bit or an amount (R92, R93). -/
theorem encodedAs_encode (h₄ : i.opcode.toNat ≠ 0x04) (h₅ : i.opcode.toNat ≠ 0x05) : EncodedAs i (encode i) := by
  refine ⟨rfl, decode_encode_of_canonical hs, fun v ho hne => ?_⟩
  obtain ⟨-, hop, -, hlo, hhi, -⟩ := hs
  rw [hop] at ho
  rw [← ho] at h₄ h₅ hlo hhi
  by_cases hr : reservedBits v = 0
  · refine decode_unusedAmount ⟨hlo, hhi⟩ h₄ h₅ fun ha => hne ?_
    rw [eq_enc_of_reservedBits_zero hr, encode, ← ho, ha, rowOf_amount (rowOf_opcode i) (ho ▸ h₄) (ho ▸ h₅)]
  · exact decode_reservedBits ⟨hlo, hhi⟩ hr

end

/-! ## Acceptance -/

theorem State.accept_of_unwritten {s : State} {i : Instr} (h : ∃ r ∈ i.reads, s.written r = false) :
    s.accept i = .fault .unwrittenRead := by
  rw [State.accept, if_pos (by simpa using h)]

theorem State.accept_of_written {s : State} {i : Instr} (hf : i.fullHash = false)
    (h : ∀ r ∈ i.reads, s.written r = true) : s.accept i = .next (accepted s i .exec) := by
  rw [State.accept, if_neg (by simpa using h), if_pos hf]
  rfl

/-- A well-formed command that is no full hash is accepted exactly when the registers it reads are written (R35). -/
theorem acceptsWith_reads {i : Instr} (hw : i.wf = true) (hf : i.fullHash = false) : AcceptsWith i i.reads := by
  intro s hp
  rw [exec_idle hp, if_pos hw]
  exact ⟨State.accept_of_unwritten, State.accept_of_written hf⟩

/-! ## The EXEC step -/

theorem completesWith_of_execStep {i : Instr} {result : State → U128}
    (he : ∀ s, exec i s = s.execStep i (result s)) : CompletesWith i result := by
  intro s hp hc
  rw [he, State.execStep, hp]
  exact State.running_self hc

/-! ## The operands: OPH and OPK read off the register are the model's 32-bit operands (R96) -/

theorem oph32_eq (s : State) : oph32 s = s.h32s := by
  simp [oph32, State.h32s, Quad.map, BitVec.setWidth_eq_extractLsb']

theorem opk32_eq (s : State) : opk32 s = s.k32s := by
  simp [opk32, State.k32s, Quad.map, BitVec.setWidth_eq_extractLsb']

/-! ## The commands -/

/-- Settles O20: SCRAMBLE32 is one of the commands with no amount that are no full hash; its operand is OPK0[31:0]. -/
theorem scramble32Command : Obligations.Scramble32Command := by
  refine ⟨encodedAs_encode Laws.CanonicalWord.scramble32 (by decide) (by decide), acceptsWith_reads rfl rfl,
    completesWith_of_execStep fun s => ?_, by decide, by decide⟩
  rw [opk32_eq]
  rfl

/-- Settles O21: FMIX32 is one of the commands with no amount that are no full hash; its operand is OPH0[31:0]. -/
theorem fmix32Command : Obligations.Fmix32Command := by
  refine ⟨encodedAs_encode Laws.CanonicalWord.fmix32 (by decide) (by decide), acceptsWith_reads rfl rfl,
    completesWith_of_execStep fun s => ?_, by decide, by decide, by decide⟩
  rw [oph32_eq]
  rfl

/-- Settles O22: FMIX64 is one of the commands with no amount that are no full hash; its operand is the whole of
OPH0. -/
theorem fmix64Command : Obligations.Fmix64Command :=
  ⟨encodedAs_encode Laws.CanonicalWord.fmix64 (by decide) (by decide), acceptsWith_reads rfl rfl,
    completesWith_of_execStep fun _ => rfl, by decide, by decide, by decide⟩

end Sys2Proof.Machine
end

section
/-! PROOFS. The stage commands of the 32-bit pipeline, MIX32, TAIL32 and FIN32 (41_hash32.md R157 to R159), and the
facts about their functions that those rules state. -/

namespace Sys2Proof.Machine

open Claims

/-! ## `mix32`: the xor with the scrambled block word cancels where the state word holds it too -/

theorem mix32_xor_scramble32 (x k : U32) : mix32 (x ^^^ scramble32 k) k = rotl32 x 13 * 5 + 0xE6546B64 := by
  simp [mix32]

/-- The step fixes the state words `scramble32 k` and `1 ^^^ scramble32 k` for two different values of `scramble32 k`,
so it never fixes both. -/
theorem exists_mix32_ne_self (k : U32) : ∃ h, mix32 h k ≠ h := by
  by_cases hk : scramble32 k = 0xE6546B64
  · refine ⟨1 ^^^ scramble32 k, ?_⟩
    rw [mix32_xor_scramble32, hk]
    decide
  · refine ⟨0 ^^^ scramble32 k, ?_⟩
    rw [mix32_xor_scramble32]
    simpa [rotl32] using Ne.symm hk

/-! ## `tail32`: the masking keeps the low bytes only -/

theorem getLsbD_keepBytes {w : Nat} (k : BitVec w) (m j : Nat) :
    (keepBytes k m).getLsbD j = (decide (j < 8 * m) && k.getLsbD j) := by
  rw [keepBytes, BitVec.getLsbD_and, BitVec.getLsbD_ofNat, Nat.testBit_two_pow_sub_one]
  by_cases hj : j < w
  · simp [hj, Bool.and_comm]
  · simp [BitVec.getLsbD_of_ge, Nat.le_of_not_lt hj]

theorem keepBytes_congr {w m : Nat} {k k' : BitVec w} (h : ∀ j, j < 8 * m → k.getLsbD j = k'.getLsbD j) :
    keepBytes k m = keepBytes k' m := by
  refine BitVec.eq_of_getLsbD_eq fun j _ => ?_
  by_cases hj : j < 8 * m
  · simp [getLsbD_keepBytes, hj, h j hj]
  · simp [getLsbD_keepBytes, hj]

theorem tail32_congr {h k k' : U32} {t : Nat} (hk : ∀ j, j < 8 * t → k.getLsbD j = k'.getLsbD j) :
    tail32 h k t = tail32 h k' t := by
  simp only [tail32, keepBytes_congr hk]

@[simp] theorem tail32_zero (h k : U32) : tail32 h k 0 = h := rfl

/-! ## `fin32` -/

theorem fin32_self (n : U32) : fin32 n n = 0 := by
  rw [fin32, BitVec.xor_self]
  decide

/-! ## The commands -/

/-- Settles O23: MIX32 is one of the commands with no amount that are no full hash; for no block word is its function
the identity, since it cannot fix both `scramble32 k` and `1 ^^^ scramble32 k`. -/
theorem mix32Command : Obligations.Mix32Command := by
  refine ⟨encodedAs_encode Laws.CanonicalWord.mix32 (by decide) (by decide), acceptsWith_reads rfl rfl,
    completesWith_of_execStep fun s => ?_, by decide, exists_mix32_ne_self, by decide⟩
  rw [oph32_eq, opk32_eq]
  rfl

/-- Settles O24: TAIL32 is one of the commands with no amount that are no full hash; the mask of R152 leaves of the
block word the bits below `8 * t` only. -/
theorem tail32Command : Obligations.Tail32Command := by
  refine ⟨encodedAs_encode Laws.CanonicalWord.tail32 (by decide) (by decide), acceptsWith_reads rfl rfl,
    completesWith_of_execStep fun s => ?_, fun _ _ _ _ _ => tail32_congr, tail32_zero, by decide, by decide, by decide⟩
  rw [oph32_eq, opk32_eq]
  rfl

/-- Settles O25: FIN32 is one of the commands with no amount that are no full hash; equal operands cancel before
`fmix32`. -/
theorem fin32Command : Obligations.Fin32Command := by
  refine ⟨encodedAs_encode Laws.CanonicalWord.fin32 (by decide) (by decide), acceptsWith_reads rfl rfl,
    completesWith_of_execStep fun s => ?_, fin32_self, by decide⟩
  rw [oph32_eq]
  rfl

end Sys2Proof.Machine
end

section
/-! PROOFS. The stage commands of the 64-bit pipeline, MIX64, TAIL64 and FIN64 (42_hash128_x64.md R189 to R191), and the
facts about `tail64` that R190 states. -/

namespace Sys2Proof.Machine

open Claims

/-! ## `tail64`, lane by lane: more than 8 tail bytes reach h2, and from 8 on h1 takes the whole of k1 -/

theorem keepBytes_eight (k : U64) : keepBytes k 8 = k := BitVec.and_allOnes

section
variable (h1 h2 k1 k2 : U64)

@[simp] theorem tail64_zero : tail64 h1 h2 k1 k2 0 = (h1, h2) := rfl

variable {t : Nat}

theorem tail64_snd_of_le (ht : t ≤ 8) : (tail64 h1 h2 k1 k2 t).2 = h2 := if_neg (Nat.not_lt_of_le ht)

theorem tail64_snd_of_lt (ht : 8 < t) : (tail64 h1 h2 k1 k2 t).2 = h2 ^^^ x64K2 (keepBytes k2 (t - 8)) := if_pos ht

theorem tail64_fst_of_ge (ht : 8 ≤ t) : (tail64 h1 h2 k1 k2 t).1 = h1 ^^^ x64K1 k1 := by
  have hpos : 0 < t := by omega
  simp only [tail64, if_pos hpos, Nat.min_eq_right ht, keepBytes_eight]

/-- Of the second block word the mask of R185 leaves the `t - 8` low bytes only. -/
theorem tail64_congr_snd {k2 k2' : U64} (hk : ∀ j, j < 8 * (t - 8) → k2.getLsbD j = k2'.getLsbD j) :
    tail64 h1 h2 k1 k2 t = tail64 h1 h2 k1 k2' t := by
  simp only [tail64, keepBytes_congr hk]

end

theorem getLsbD_eq_of_setWidth_eq {w n j : Nat} {x y : BitVec w} (h : x.setWidth n = y.setWidth n) (hj : j < n) :
    x.getLsbD j = y.getLsbD j := by
  simpa [hj] using congrArg (BitVec.getLsbD · j) h

/-- What tells `t = 9` from `t = 15` on all-one words: the lane keeps one byte of k2, or seven. -/
theorem x64K2_keepBytes_ones_ne :
    x64K2 (keepBytes 0xFFFFFFFFFFFFFFFF 1) ≠ x64K2 (keepBytes 0xFFFFFFFFFFFFFFFF 7) := by
  decide

theorem tail64_snd_ones_ne (h1 h2 k1 : U64) :
    (tail64 h1 h2 k1 0xFFFFFFFFFFFFFFFF 9).2 ≠ (tail64 h1 h2 k1 0xFFFFFFFFFFFFFFFF 15).2 := by
  rw [tail64_snd_of_lt (ht := by omega), tail64_snd_of_lt (ht := by omega)]
  exact mt (BitVec.xor_right_inj h2).mp x64K2_keepBytes_ones_ne

/-! ## The commands: a two-lane result is packed as `cat` of its lanes (R97) -/

/-- Settles O27: TAIL64 is one of the commands with no amount that are no full hash; its corners are the lanes' values
on each side of 8 tail bytes. -/
theorem tail64Command : Obligations.Tail64Command := by
  refine ⟨encodedAs_encode Laws.CanonicalWord.tail64 (by decide) (by decide), acceptsWith_reads rfl rfl,
    completesWith_of_execStep fun s => congrArg (s.execStep .tail64) (pack2_eq _), tail64_zero,
    fun h1 h2 k1 k2 _ _ ht => tail64_snd_of_le h1 h2 k1 k2 ht, fun h1 h2 k1 k2 k2' hk => ?_, fun h1 h2 => ⟨?_, ?_⟩,
    by decide⟩
  · exact tail64_congr_snd h1 h2 k1 fun _ => getLsbD_eq_of_setWidth_eq hk
  · rw [tail64_fst_of_ge (ht := by omega), tail64_fst_of_ge (ht := by omega)]
  · exact tail64_snd_ones_ne h1 h2 _

/-- Settles O26: MIX64 is one of the commands with no amount that are no full hash. -/
theorem mix64Command : Obligations.Mix64Command :=
  ⟨encodedAs_encode Laws.CanonicalWord.mix64 (by decide) (by decide), acceptsWith_reads rfl rfl,
    completesWith_of_execStep fun s => congrArg (s.execStep .mix64) (pack2_eq _), by decide, by decide, by decide⟩

/-- Settles O28: FIN64 is one of the commands with no amount that are no full hash; its result is one 128-bit word
already. -/
theorem fin64Command : Obligations.Fin64Command :=
  ⟨encodedAs_encode Laws.CanonicalWord.fin64 (by decide) (by decide), acceptsWith_reads rfl rfl,
    completesWith_of_execStep fun _ => rfl, by decide, by decide⟩

end Sys2Proof.Machine
end

section
/-! PROOFS. The stage commands of the x86 pipeline, MIX86, TAIL86 and FIN86 (43_hash128_x86.md R219 to R221), and the
facts about `mix86` and `tail86` that those rules state. -/

namespace Sys2Proof.Machine

open Claims

/-! ## The steps a block word goes through lose nothing: the rotate moves bits, an odd factor has no common divisor
with `2 ^ w` -/

theorem getLsbD_rotl32_mod (x : U32) {r i : Nat} (hr : r < 32) (hi : i < 32) :
    (rotl32 x r).getLsbD ((i + r) % 32) = x.getLsbD i := by
  by_cases h : i + r < 32
  · have hshr : x.getLsbD (32 - r + (i + r)) = false := BitVec.getLsbD_of_ge x _ (by omega)
    simp [rotl32, Nat.mod_eq_of_lt h, h, hshr, BitVec.getLsbD_eq_getElem hi]
  · have hmod : (i + r) % 32 = i + r - 32 := by omega
    simp [rotl32, hmod, show i + r - 32 < r by omega, show 32 - r + (i + r - 32) = i by omega]

theorem rotl32_inj {x y : U32} {r : Nat} (hr : r < 32) : rotl32 x r = rotl32 y r ↔ x = y := by
  refine ⟨fun h => BitVec.eq_of_getLsbD_eq fun i hi => ?_, congrArg (rotl32 · r)⟩
  rw [← getLsbD_rotl32_mod x hr hi, h, getLsbD_rotl32_mod y hr hi]

theorem mul_left_inj_of_odd {w : Nat} {x y c : BitVec w} (hc : Odd c.toNat) : x * c = y * c ↔ x = y := by
  refine ⟨fun h => BitVec.eq_of_toNat_eq ?_, congrArg (· * c)⟩
  have hmod : x.toNat * c.toNat ≡ y.toNat * c.toNat [MOD 2 ^ w] := congrArg BitVec.toNat h
  have hcop : Nat.gcd (2 ^ w) c.toNat = 1 := (Nat.coprime_two_left.mpr hc).pow_left w
  exact (hmod.cancel_right_of_coprime hcop).eq_of_lt_of_lt x.isLt y.isLt

theorem odd_x86C (j : Fin 4) : Odd (x86C j).toNat := by
  fin_cases j <;> decide

theorem x86K_inj (j : Fin 4) {k k' : U32} : x86K j k = x86K j k' ↔ k = k' := by
  have hr : x86KR j < 32 := by fin_cases j <;> decide
  rw [x86K, x86K, mul_left_inj_of_odd (odd_x86C _), rotl32_inj hr, mul_left_inj_of_odd (odd_x86C _)]

/-! ## `mix86`: lane 1 takes k1, lane 4 adds lane 1 as updated, and lanes 2 and 3 read neither (R213) -/

/-- What `mix86` makes of one lane: it takes its mixed word, rotates by `r`, adds the next lane and scales (R213). -/
def mixLane86 (h k next : U32) (r : Nat) (d : U32) : U32 := (rotl32 (h ^^^ k) r + next) * 5 + d

theorem mix86_eq (h k : Quad U32) :
    mix86 h k =
      ⟨mixLane86 h.q0 (x86K 0 k.q0) h.q1 19 0x561ccd1b, mixLane86 h.q1 (x86K 1 k.q1) h.q2 17 0x0bcaa747,
        mixLane86 h.q2 (x86K 2 k.q2) h.q3 15 0x96cd1c35,
        mixLane86 h.q3 (x86K 3 k.q3) (mix86 h k).q0 13 0x32ac3b17⟩ := rfl

theorem mixLane86_word_inj {h k k' next d : U32} {r : Nat} (hr : r < 32) :
    mixLane86 h k next r d = mixLane86 h k' next r d ↔ k = k' := by
  rw [mixLane86, mixLane86, BitVec.add_left_inj, mul_left_inj_of_odd (by decide), BitVec.add_left_inj, rotl32_inj hr,
    BitVec.xor_right_inj]

theorem mixLane86_next_inj {h k next next' d : U32} {r : Nat} :
    mixLane86 h k next r d = mixLane86 h k next' r d ↔ next = next' := by
  rw [mixLane86, mixLane86, BitVec.add_left_inj, mul_left_inj_of_odd (by decide), BitVec.add_right_inj]

section
variable (h k : Quad U32) (k1 : U32)

theorem mix86_q0_eq_iff : (mix86 h k).q0 = (mix86 h { k with q0 := k1 }).q0 ↔ k.q0 = k1 := by
  rw [mix86_eq h k, mix86_eq h { k with q0 := k1 }, mixLane86_word_inj (by decide), x86K_inj]

theorem mix86_q3_eq_iff : (mix86 h k).q3 = (mix86 h { k with q0 := k1 }).q3 ↔ k.q0 = k1 := by
  rw [mix86_eq h k, mix86_eq h { k with q0 := k1 }, mixLane86_next_inj, mix86_q0_eq_iff]

/-- Only lanes 1 and 4 depend on k1, and they do so without loss (R219). -/
theorem mix86_change_k1 : let a := mix86 h k; let b := mix86 h { k with q0 := k1 }
    a.q1 = b.q1 ∧ a.q2 = b.q2 ∧ (k1 ≠ k.q0 → a.q0 ≠ b.q0 ∧ a.q3 ≠ b.q3) :=
  ⟨rfl, rfl, fun hne => ⟨mt (mix86_q0_eq_iff h k k1).mp hne.symm, mt (mix86_q3_eq_iff h k k1).mp hne.symm⟩⟩

end

/-! ## `tail86` -/

@[simp] theorem tail86_zero (h k : Quad U32) : tail86 h k 0 = h := rfl

/-! ## The commands: a four-lane result is packed as `cat` of its lanes (R97) -/

/-- Settles O29: MIX86 is one of the commands with no amount that are no full hash; its k1 clause holds because every
step that k1 goes through on the way to lanes 1 and 4 is injective. -/
theorem mix86Command : Obligations.Mix86Command := by
  refine ⟨encodedAs_encode Laws.CanonicalWord.mix86 (by decide) (by decide), acceptsWith_reads rfl rfl,
    completesWith_of_execStep fun s => ?_, by decide, by decide, mix86_change_k1, by decide⟩
  rw [oph32_eq, opk32_eq]
  exact congrArg (s.execStep .mix86) (pack4_eq _)

/-- Settles O30: TAIL86 is one of the commands with no amount that are no full hash; its corners are the lanes' masked
words. -/
theorem tail86Command : Obligations.Tail86Command := by
  refine ⟨encodedAs_encode Laws.CanonicalWord.tail86 (by decide) (by decide), acceptsWith_reads rfl rfl,
    completesWith_of_execStep fun s => ?_, tail86_zero, by decide, by decide, by decide, by decide⟩
  rw [oph32_eq, opk32_eq]
  exact congrArg (s.execStep .tail86) (pack4_eq _)

/-- Settles O31: FIN86 is one of the commands with no amount that are no full hash; its result is one 128-bit word
already. -/
theorem fin86Command : Obligations.Fin86Command := by
  refine ⟨encodedAs_encode Laws.CanonicalWord.fin86 (by decide) (by decide), acceptsWith_reads rfl rfl,
    completesWith_of_execStep fun s => ?_, by decide, by decide⟩
  rw [oph32_eq]
  rfl

end Sys2Proof.Machine
end

section
/-! PROOFS. Errors: which code a CMD write rejects a word with (30_encoding.md R94), what an error response leaves
unchanged (60_exceptions.md R242), and how long an error stands (R245). -/

namespace Sys2Proof

/-! ## The code of a word, by the decoder's answer -/

/-- Only the rotates have a field that can be illegal (R92). -/
theorem rowOf_wf {op : BitVec 5} {amt : BitVec 6} {i : Instr} (h : rowOf op amt = some i)
    (h₄ : op.toNat ≠ 0x04) (h₅ : op.toNat ≠ 0x05) : i.wf = true := by
  unfold rowOf at h
  split at h
  case h_4 he => exact absurd he h₄
  case h_5 he => exact absurd he h₅
  case h_18 => cases h
  all_goals
    cases h
    rfl

theorem rotl32_wf_iff (amt : BitVec 6) : (Instr.rotl32 amt).wf = true ↔ ¬(amt.toNat = 0 ∨ 32 ≤ amt.toNat) := by
  rw [Instr.wf, decide_eq_true_iff]
  omega

theorem rotl64_wf_iff (amt : BitVec 6) : (Instr.rotl64 amt).wf = true ↔ ¬amt.toNat = 0 := by
  rw [Instr.wf, decide_eq_true_iff]
  omega

section
variable {w : U32} {i : Instr}

theorem not_reservedOp (hi : rowOf (opField w) (amtField w) = some i) :
    ¬((opField w).toNat = 0x00 ∨ 0x12 ≤ (opField w).toNat) :=
  fun ho => nomatch (rowOf_eq_none_iff.mpr ho).symm.trans hi

theorem decodeCheck_of_reservedOp (hi : rowOf (opField w) (amtField w) = none) : decodeCheck w = .illegalOp :=
  if_pos (rowOf_eq_none_iff.mp hi)

theorem decodeCheck_of_reservedBits (hi : rowOf (opField w) (amtField w) = some i) (hr : reservedBits w ≠ 0) :
    decodeCheck w = .reservedField := by
  simp only [decodeCheck, if_neg (not_reservedOp hi), if_pos hr]

/-- With the reserved bits zero, what is left of `decode_check` is whether the row uses `amt`, and for a rotate its
range. -/
theorem decodeCheck_of_row (hi : rowOf (opField w) (amtField w) = some i) (hr : reservedBits w = 0) :
    decodeCheck w =
      if amtField w ≠ i.amount then .reservedField else if i.wf then .noError else .badRotate := by
  simp only [decodeCheck, if_neg (not_reservedOp hi), hr, ne_eq, not_true, if_false]
  by_cases h₄ : (opField w).toNat = 0x04
  · obtain rfl : Instr.rotl32 (amtField w) = i := by simpa [rowOf, h₄] using hi
    simp only [if_pos h₄, Instr.amount, not_true, if_false, rotl32_wf_iff, ite_not]
  by_cases h₅ : (opField w).toNat = 0x05
  · obtain rfl : Instr.rotl64 (amtField w) = i := by simpa [rowOf, h₅] using hi
    simp only [if_neg h₄, if_pos h₅, Instr.amount, not_true, if_false, rotl64_wf_iff, ite_not]
  · have ha : (amtField w).toNat = 0 ↔ amtField w = 0 := BitVec.toNat_inj (y := 0)
    simp only [if_neg h₄, if_neg h₅, ha, rowOf_amount hi h₄ h₅, rowOf_wf hi h₄ h₅, if_true]

theorem decodeCheck_of_decode_error {c : ErrCode} (hd : decode w = .error c) :
    decodeCheck w = c ∧ c ≠ .noError := by
  unfold decode at hd
  split at hd
  case h_1 hi =>
    cases hd
    exact ⟨decodeCheck_of_reservedOp hi, nofun⟩
  case h_2 i hi =>
    split_ifs at hd with hr ha <;> cases hd
    · exact ⟨decodeCheck_of_reservedBits hi hr, nofun⟩
    · exact ⟨(decodeCheck_of_row hi (not_not.mp hr)).trans (if_pos ha), nofun⟩

theorem decodeCheck_of_decode_ok (hd : decode w = .ok i) :
    decodeCheck w = if i.wf then .noError else .badRotate := by
  unfold decode at hd
  split at hd
  case h_1 => cases hd
  case h_2 j hi =>
    split_ifs at hd with hr ha
    cases hd
    exact (decodeCheck_of_row hi (not_not.mp hr)).trans (if_neg ha)

end

end Sys2Proof

namespace Sys2Proof.Machine

/-! ## What a CMD write to an idle engine answers -/

/-- The next states of a CMD write to an idle engine: `decode_check` rejects the word, or the command is rejected for
the length of its key, or it is accepted (R35, R243). -/
inductive CmdNext (s : State) (w : U32) : State → Prop where
  | badWord (hc : decodeCheck w ≠ .noError) : CmdNext s w (Claims.rejected { s with cmd := w } (decodeCheck w))
  | lenRange (i : Instr) (hc : decodeCheck w = .noError) (hd : decode w = .ok i) (hf : i.fullHash = true)
      (hl : s.cfg.bufBytes.toNat < s.keyLen.value.toNat) : CmdNext s w (Claims.rejected { s with cmd := w } .lenRange)
  | accepted (i : Instr) (p : Phase) : CmdNext s w (Claims.accepted { s with cmd := w } i p)

section
variable {s t : State} {w : U32} (hp : s.eng.phase = .idle)
include hp

theorem CmdNext.ofExec {i : Instr} (hd : decode w = .ok i) (h : exec i { s with cmd := w } = .next t) :
    CmdNext s w t := by
  have hc := decodeCheck_of_decode_ok hd
  rw [exec_idle (s := { s with cmd := w }) hp] at h
  split_ifs at h hc
  · obtain ⟨-, ⟨-, rfl⟩ | ⟨hf, hl, rfl⟩ | ⟨-, -, -, rfl⟩⟩ := State.accept_next h
    · exact .accepted i .exec
    · exact .lenRange i hc hd hf hl
    · exact .accepted i .init
  · cases h
    rw [← hc]
    exact .badWord (by simp [hc])

theorem State.writeCmd_cmdNext (h : s.writeCmd w = .next t) : CmdNext s w t := by
  obtain ⟨-, ⟨c, hd, rfl⟩ | ⟨i, hd, hi⟩⟩ := State.writeCmd_next h
  · obtain ⟨rfl, hc⟩ := decodeCheck_of_decode_error hd
    exact .badWord hc
  · exact .ofExec hp hd hi

/-- The one fault of a CMD write to a block at rest is of an unwritten operand (R35). -/
theorem State.writeCmd_fault_idle {f : Fault} (hb : s.status.state ≠ .busy) (h : s.writeCmd w = .fault f) :
    f = .unwrittenRead := by
  cases hd : decode w with
  | error c => cases (State.writeCmd_of_decode_error hb hd).symm.trans h
  | ok i =>
    rw [State.writeCmd_of_decode_ok hb hd, exec_idle (s := { s with cmd := w }) hp] at h
    split at h
    · exact (State.accept_fault h).1
    · cases h

end

/-! ## Which steps write STATUS -/

/-- An engine that is not idle completes or leaves STATUS: it raises no error (R36, R242). -/
theorem exec_status_running {i : Instr} {s t : State} (hp : s.eng.phase ≠ .idle) (h : exec i s = .next t) :
    t.status = s.status ∨ t.status = .done := by
  cases exec_next h with
  | badRotate hq | accept hq => exact absurd hq hp
  | exec | final => exact .inr rfl
  | init | block | tail => exact .inl rfl

/-- A host action other than a CMD write leaves STATUS (R23). -/
theorem ActionNext.status {s t : State} {a : HostAction} (h : ActionNext s a t) :
    t.status = s.status ∨ ∃ v, a = .wr 0 v ∧ s.writeCmd (v.setWidth 32) = .next t := by
  cases h with
  | command h => exact .inr ⟨_, rfl, h⟩
  | input r => exact .inl (s.setReg_status r _)
  | ignored | byte | env => exact .inl rfl

/-- STATUS is written by reset, by a completion step, and by a CMD write only (R24). -/
theorem step_status {s t : State} (hs : s.Inv) (h : step s = .next t) :
    t.status = s.status ∨ (s.turn = .platform ∧ t.status = ⟨.idle, .noError⟩) ∨
      (s.status.state = .busy ∧ t.status = .done) ∨
      (s.turn = .host ∧ ∃ v rest, s.env.prog = .wr 0 v :: rest ∧
        s.popTurn.popAction.writeCmd (v.setWidth 32) = .next t) := by
  cases step_next h with
  | reset ht => exact .inr (.inl ⟨ht, rfl⟩)
  | fault | rest | noAction => exact .inl rfl
  | engine hf ht hb h =>
    have hbusy := State.busy_iff.mp hb
    obtain hst | hst := exec_status_running (s := s.popTurn) (fun hp => hs.phaseIdle.mp hp hbusy) h
    · exact .inl hst
    · exact .inr (.inr (.inl ⟨hbusy, hst⟩))
  | host hf ht hprog h =>
    obtain hst | ⟨v, rfl, hw⟩ := h.status
    · exact .inl hst
    · exact .inr (.inr (.inr ⟨ht, v, _, hprog, hw⟩))

/-- An engine turn of a block that runs no command only uses up the turn (R36, R280). -/
theorem step_engine_rest {s t : State} (hb : s.status.state ≠ .busy) (ht : s.turn = .engine) (h : step s = .next t) :
    t = s.popTurn := by
  have hrest : s.popTurn.engineTurn = .next s.popTurn := if_neg (mt State.busy_iff.mp hb)
  simp only [step, State.takeTurn, ht] at h
  obtain ⟨-, hn | ⟨f, hf, -⟩⟩ := State.enabledTurn_next h
  · exact Host.Outcome.next.inj (hn.symm.trans hrest)
  · cases hrest.symm.trans hf

/-! ## The statements -/

theorem State.Inv.phase_idle_of_error {s : State} (hs : s.Inv) (he : s.status.state = .error) :
    s.eng.phase = .idle := hs.phaseIdle.mpr (by simp [he])

/-- Settles O17: of the next states of a CMD write the two rejections are in ERROR; no other step writes STATUS with an
error, and the engine's turn of a block that is not BUSY only uses up the turn. -/
theorem errorResponse : Obligations.ErrorResponse := by
  refine ⟨fun s t w hs h he => ?_, fun s t hs h he hne => ?_, fun s t he ht h => ?_⟩
  · have hp : s.eng.phase = .idle := hs.phaseIdle.mpr (State.not_busy_iff.mp (State.writeCmd_next h).1)
    cases State.writeCmd_cmdNext hp h with
    | badWord hc => exact ⟨rfl, .inl ⟨hc, rfl⟩⟩
    | lenRange i hc hd hf hl => exact ⟨rfl, .inr ⟨hc, rfl, hl, i, hd, hf⟩⟩
    | accepted i p => cases he
  · obtain hst | ⟨-, hst⟩ | ⟨-, hst⟩ | ⟨ht, v, rest, hprog, -⟩ := step_status hs h
    · exact absurd hst hne
    · simp [hst] at he
    · simp [hst, Status.done] at he
    · exact ⟨ht, v, rest, hprog⟩
  · rw [step_engine_rest (by simp [he]) ht h]
    rfl

/-- Settles O53: in ERROR the engine is idle, so only reset and a CMD write touch STATUS, and the write's outcomes are
those of an idle engine. -/
theorem errorPersists : Obligations.ErrorPersists := by
  refine ⟨fun s t hs he h => ?_, fun s t w hs he h => ?_, fun s w hs he h => ?_⟩
  · obtain hst | hreset | ⟨hb, -⟩ | ⟨ht, v, rest, hprog, hw⟩ := step_status hs h
    · exact .inl hst
    · exact .inr (.inl hreset)
    · simp [he] at hb
    · refine .inr (.inr ⟨ht, ⟨v, rest, hprog⟩, ?_⟩)
      cases State.writeCmd_cmdNext (s := s.popTurn.popAction) (hs.phase_idle_of_error he) hw with
      | badWord | lenRange => exact .inl rfl
      | accepted => exact .inr rfl
  · cases State.writeCmd_cmdNext (hs.phase_idle_of_error he) h with
    | badWord hc => exact .inr (.inl ⟨hc, rfl⟩)
    | lenRange i hc hd hf hl => exact .inr (.inr ⟨hc, rfl, hl⟩)
    | accepted => exact .inl rfl
  · cases State.writeCmd_fault_idle (hs.phase_idle_of_error he) (by simp [he]) h

end Sys2Proof.Machine
end

section
/-! PROOFS. The host's accesses to a block that is BUSY (70_reset_and_hazards.md R274): which registers refuse the
write, which accesses are answered as in any other state, and the one read that busy refuses (10_state.md R28). -/

namespace Sys2Proof.Machine

/-! ## The number of a register -/

/-- The numbering of the mapped registers is one-to-one (R20). -/
theorem Reg.ofNumber_eq_some_iff {n : Nat} {r : Reg} : Reg.ofNumber n = some r ↔ r.number = n := by
  constructor
  · intro h
    have hn : n < 14 := Nat.lt_of_not_le fun hge => nomatch (Reg.ofNumber_eq_none_iff.mpr hge).symm.trans h
    interval_cases n <;> cases h <;> rfl
  · rintro rfl
    cases r with
    | oph j | opk j => fin_cases j <;> rfl
    | cmd | status | keyLen | seed | resLo | resHi => rfl

/-- CMD and the input registers: the registers a host write changes (R22, R25 to R27). -/
def Reg.writable (r : Reg) : Prop := r ≠ .status ∧ r ≠ .resLo ∧ r ≠ .resHi

theorem Reg.exists_writable_of_number {n : Nat} (hn : n = 0 ∨ (2 ≤ n ∧ n ≤ 11)) :
    ∃ r : Reg, Reg.ofNumber n = some r ∧ r.writable := by
  obtain ⟨r, hr⟩ := Option.ne_none_iff_exists'.mp (mt Reg.ofNumber_eq_none_iff.mp (by omega : ¬ 14 ≤ n))
  have hnum : r.number = n := Reg.ofNumber_eq_some_iff.mp hr
  refine ⟨r, hr, ?_, ?_, ?_⟩ <;> rintro rfl <;> simp only [Reg.number] at hnum <;> omega

/-! ## A write while BUSY -/

theorem State.writeCmd_of_busy {s : State} {w : U32} (hb : s.status.state = .busy) :
    s.writeCmd w = .fault .writeWhileBusy := if_pos (State.busy_iff.mpr hb)

theorem State.writeInput_of_busy {s : State} {r : Reg} {v : U64} (hb : s.status.state = .busy) :
    s.writeInput r v = .fault .writeWhileBusy := if_pos (State.busy_iff.mpr hb)

theorem State.hostWrite_of_busy {s : State} {n : Nat} {r : Reg} {v : U64} (hr : Reg.ofNumber n = some r)
    (hw : r.writable) (hb : s.status.state = .busy) : s.hostWrite n v = .fault .writeWhileBusy := by
  obtain ⟨hstatus, hlo, hhi⟩ := hw
  simp only [State.hostWrite, hr]
  cases r with
  | cmd => exact State.writeCmd_of_busy hb
  | keyLen | seed | oph | opk => exact State.writeInput_of_busy hb
  | status => exact absurd rfl hstatus
  | resLo => exact absurd rfl hlo
  | resHi => exact absurd rfl hhi

/-! ## A read while BUSY -/

/-- A read of any register but RES does not look at BUSY (R28, R29). -/
theorem State.hostRead_of_ne_result {n : Nat} {r : Reg} (s : State) (hr : Reg.ofNumber n = some r) (hlo : r ≠ .resLo)
    (hhi : r ≠ .resHi) : s.hostRead n = if s.written r then .ok (s.value r) else .error .unwrittenRead := by
  rw [s.hostRead_of_number hr, if_neg fun h => h.2.elim hlo hhi]
  cases s.written r <;> rfl

theorem State.hostRead_status (s : State) : s.hostRead 1 = .ok (s.status.word.setWidth 64) :=
  s.hostRead_of_ne_result (r := .status) rfl nofun nofun

/-- Only a half of RES is refused with this fault, and then because of busy (R28). -/
theorem State.result_of_hostRead_error {s : State} {n : Nat} (h : s.hostRead n = .error .resultReadWhileBusy) :
    n = 12 ∨ n = 13 := by
  cases hr : Reg.ofNumber n with
  | none => cases (State.hostRead_unmapped_iff.mpr hr).symm.trans h
  | some r =>
    rw [s.hostRead_of_number hr] at h
    split_ifs at h with hres hw
    · rw [← Reg.ofNumber_eq_some_iff.mp hr]
      exact hres.2.imp (congrArg Reg.number) (congrArg Reg.number)
    · cases h

/-! ## The statement -/

/-- Settles O11: CMD and the input registers refuse the write and are read as in any other state; RES is refused to a
read alone, and a write to it, as to STATUS, changes nothing. -/
theorem busyRule : Obligations.BusyRule := by
  refine fun s hb => ⟨fun n v hn => ?_, fun off v ho => State.hostWriteByte_of_busy ho hb, s.hostRead_status,
    fun n hn => ?_, fun off ho => ?_, fun n v hn => ?_,
    fun n => ⟨State.result_of_hostRead_error, fun hn => ?_⟩⟩
  · obtain ⟨r, hr, hw⟩ := Reg.exists_writable_of_number hn
    exact State.hostWrite_of_busy hr hw hb
  · obtain ⟨r, hr, -, hlo, hhi⟩ := Reg.exists_writable_of_number hn
    exact ⟨r, hr, s.hostRead_of_ne_result hr hlo hhi⟩
  · cases hbyte : s.buf.read off with
    | none => exact State.readByte_of_unwritten ho hbyte
    | some b => exact State.readByte_eq_ok.mpr ⟨ho, hbyte⟩
  · obtain rfl | rfl | rfl := hn <;> rfl
  · obtain rfl | rfl := hn
    · exact State.hostRead_result_busy (r := .resLo) rfl hb (.inl rfl)
    · exact State.hostRead_result_busy (r := .resHi) rfl hb (.inr rfl)

end Sys2Proof.Machine
end

section
/-! PROOFS. Decode and encode are inverse to each other, and the decoder against `decode_check` (30_encoding.md R90 to
R94). -/

namespace Sys2Proof

/-- The word of every command is the canonical one. -/
theorem canonicalWord (i : Instr) : Laws.CanonicalWord.Statement i := by
  cases i with
  | hash32 => exact Laws.CanonicalWord.hash32
  | hash128X64 => exact Laws.CanonicalWord.hash128X64
  | hash128X86 => exact Laws.CanonicalWord.hash128X86
  | rotl32 amt => exact Laws.CanonicalWord.rotl32 amt
  | rotl64 amt => exact Laws.CanonicalWord.rotl64 amt
  | scramble32 => exact Laws.CanonicalWord.scramble32
  | fmix32 => exact Laws.CanonicalWord.fmix32
  | fmix64 => exact Laws.CanonicalWord.fmix64
  | mix32 => exact Laws.CanonicalWord.mix32
  | tail32 => exact Laws.CanonicalWord.tail32
  | fin32 => exact Laws.CanonicalWord.fin32
  | mix64 => exact Laws.CanonicalWord.mix64
  | tail64 => exact Laws.CanonicalWord.tail64
  | fin64 => exact Laws.CanonicalWord.fin64
  | mix86 => exact Laws.CanonicalWord.mix86
  | tail86 => exact Laws.CanonicalWord.tail86
  | fin86 => exact Laws.CanonicalWord.fin86

theorem decode_encode (i : Instr) : decode (encode i) = .ok i := Machine.decode_encode_of_canonical (canonicalWord i)

/-- The row of an `op` is the command with that `op` (R91). -/
theorem opcode_of_rowOf {op : BitVec 5} {amt : BitVec 6} {i : Instr} (h : rowOf op amt = some i) : i.opcode = op := by
  unfold rowOf at h
  split at h
  case h_18 => cases h
  all_goals
    cases h
    exact BitVec.eq_of_toNat_eq (Eq.symm ‹op.toNat = _›)

/-- What a word that decodes is: no reserved bit, the row of its `op`, and the row's amount (R92). -/
theorem decode_ok {w : U32} {i : Instr} (h : decode w = .ok i) :
    reservedBits w = 0 ∧ rowOf (opField w) (amtField w) = some i ∧ amtField w = i.amount := by
  unfold decode at h
  split at h
  case h_1 => cases h
  case h_2 j hi =>
    split_ifs at h with hr ha
    cases h
    exact ⟨not_not.mp hr, hi, not_not.mp ha⟩

theorem encode_of_decode {w : U32} {i : Instr} (h : decode w = .ok i) : encode i = w := by
  obtain ⟨hr, hi, ha⟩ := decode_ok h
  rw [encode, opcode_of_rowOf hi, ← ha]
  exact (Machine.eq_enc_of_reservedBits_zero hr).symm

/-- Settles O1: each way, the word is determined by its three fields. -/
theorem decodeEncodeAgree : Obligations.DecodeEncodeAgree :=
  ⟨decode_encode, fun _ _ => encode_of_decode⟩

theorem decode_error_code {w : U32} {c : ErrCode} (h : decode w = .error c) : c = .illegalOp ∨ c = .reservedField := by
  unfold decode at h
  split at h
  · cases h
    exact .inl rfl
  · split_ifs at h <;> cases h <;> exact .inr rfl

/-- Settles O2: `decode_check` on a rejected word is the decoder's code, and on a decoded one it says whether the
command is well-formed. -/
theorem decoderFollowsDecodeCheck : Obligations.DecoderFollowsDecodeCheck := by
  intro w
  cases hd : decode w with
  | error c =>
    obtain ⟨rfl, hne⟩ := decodeCheck_of_decode_error hd
    have hcode := decode_error_code hd
    refine ⟨by simp [hne], ?_, fun c => ?_⟩
    · obtain hc | hc := hcode <;> simp [hc]
    · rw [Except.error.injEq]
      exact ⟨fun h => ⟨h, h ▸ hcode⟩, And.left⟩
  | ok i =>
    have hc := decodeCheck_of_decode_ok hd
    cases hw : i.wf <;> simp [hc, hw]

/-- Settles O4: each word is decoded by evaluation. -/
theorem specWordsDecode : Obligations.SpecWordsDecode := by
  unfold Obligations.SpecWordsDecode
  decide

end Sys2Proof
end

section
/-! PROOFS. The block after reset, and the reset event (10_state.md R39, 70_reset_and_hazards.md R270). -/

namespace Sys2Proof.Machine

theorem reset_written {r : Reg} (hcmd : r ≠ .cmd) (hstatus : r ≠ .status) : State.reset.written r = false := by
  cases r with
  | cmd => exact absurd rfl hcmd
  | status => exact absurd rfl hstatus
  | oph j | opk j => fin_cases j <;> rfl
  | keyLen | seed | resLo | resHi => rfl

theorem reset_status_word : State.reset.status.word = 0 := rfl

theorem resetBlock_written (s : State) (r : Reg) : s.resetBlock.written r = State.reset.written r := by
  cases r <;> rfl

/-- Settles O5: each value is reset's own. -/
theorem resetState : Obligations.ResetState :=
  ⟨rfl, rfl, rfl, rfl, fun _ => reset_written, fun _ => rfl, rfl, rfl⟩

/-- Settles O6: the registers from 2 on are neither CMD nor STATUS, and the buffer lists no byte. -/
theorem readsAfterReset : Obligations.ReadsAfterReset := by
  refine ⟨rfl, rfl, fun n hlo hhi => ?_, fun cfg off ho => State.readByte_of_unwritten ho rfl⟩
  obtain ⟨r, hr⟩ := Option.ne_none_iff_exists'.mp (mt Reg.ofNumber_eq_none_iff.mp (by omega : ¬ 14 ≤ n))
  have hnum : r.number = n := Reg.ofNumber_eq_some_iff.mp hr
  have hne (r' : Reg) (hlt : r'.number < 2) : r ≠ r' := by
    rintro rfl
    omega
  exact State.hostRead_unwritten hr nofun (reset_written (hne .cmd (by decide)) (hne .status (by decide)))

/-- The reset event leaves a block that meets the invariant, whatever the state it comes in. -/
theorem resetBlock_inv (s : State) : s.resetBlock.Inv where
  bufWf := rfl
  bufWithin := rfl
  phaseIdle := by simp [State.reset]
  errCode := by simp [State.reset]
  fresh := fun _ => ⟨rfl, rfl⟩
  result := nofun
  running := nofun

/-- Settles O7: reset is what the reset event leaves of itself. -/
theorem resetMeetsInvariant : Obligations.ResetMeetsInvariant := resetBlock_inv State.reset

/-- A platform turn is the reset event, in any state (R270). -/
theorem step_platform {s : State} (ht : s.turn = .platform) : step s = .next s.popTurn.resetBlock := by
  simp only [step, State.takeTurn, ht]

theorem State.turn_of_schedule {s : State} {a : Agent} {rest : List Agent} (h : s.env.schedule = a :: rest) :
    s.turn = a := by
  simp only [State.turn, h]

/-- Settles O8: the turn is the reset event, and its block is reset's. -/
theorem resetEventRestoresBlock : Obligations.ResetEventRestoresBlock := by
  intro s rest hsch
  refine ⟨_, step_platform (State.turn_of_schedule hsch), ?_, rfl, reset_status_word, rfl, fun r hcmd hstatus => ?_,
    fun _ => rfl, rfl, rfl⟩
  · simp [State.resetBlock, hsch]
  · rw [resetBlock_written, reset_written hcmd hstatus]

end Sys2Proof.Machine
end

section
/-! PROOFS. What a command, a CMD write, a host action and a step leave unchanged (30_encoding.md section 2, 10_state.md
R22, 60_exceptions.md R247), and what a turn runs (70_reset_and_hazards.md R280, 30_encoding.md R101, R102). -/

namespace Sys2Proof.Machine

/-! ## The frame of a command -/

/-- A command writes STATUS, RES and the engine, and nothing else. -/
theorem exec_frame {i : Instr} {s t : State} (h : exec i s = .next t) :
    ∃ st r e, t = { s with status := st, res := r, eng := e } := by
  cases exec_next h with
  | accept hp hw ha =>
    obtain ⟨-, ⟨-, rfl⟩ | ⟨-, -, rfl⟩ | ⟨-, -, -, rfl⟩⟩ := State.accept_next ha <;> exact ⟨_, _, _, rfl⟩
  | badRotate | exec | init | block | tail | final => exact ⟨_, _, _, rfl⟩

/-- INIT, BLOCK and TAIL leave STATUS (R36). -/
theorem exec_status_of_inner {i : Instr} {s t : State} (h : exec i s = .next t)
    (hp : s.eng.phase = .init ∨ s.eng.phase = .block ∨ s.eng.phase = .tail) : t.status = s.status := by
  cases exec_next h with
  | init | block | tail => rfl
  | badRotate hq | accept hq | exec _ hq | final _ hq => simp [hq] at hp

/-- Acceptance and rejection leave the lanes and the block counter (R35, R242). -/
theorem exec_lanes_of_idle {i : Instr} {s t : State} (h : exec i s = .next t) (hp : s.eng.phase = .idle) :
    t.eng.lanes = s.eng.lanes ∧ t.eng.blk = s.eng.blk := by
  cases exec_next h with
  | badRotate => exact ⟨rfl, rfl⟩
  | accept hq hw ha =>
    obtain ⟨-, ⟨-, rfl⟩ | ⟨-, -, rfl⟩ | ⟨-, -, -, rfl⟩⟩ := State.accept_next ha <;> exact ⟨rfl, rfl⟩
  | exec _ hq | init _ hq | block _ hq | tail _ hq | final _ hq => cases hp.symm.trans hq

/-- Settles O46: the frame equation, and for RES, STATUS and the engine the phase the command is in. -/
theorem commandFrame : Obligations.CommandFrame := by
  intro i s t h
  have hres : t.res ≠ s.res → (s.eng.phase = .exec ∨ s.eng.phase = .final) ∧ t.status = ⟨.done, .noError⟩ ∧
      t.res.written = true := fun hne => by
    obtain hr | ⟨hp, v, rfl⟩ := exec_res h
    · exact absurd hr hne
    · exact ⟨hp, rfl, rfl⟩
  have hstatus := exec_status_of_inner h
  have hlanes := exec_lanes_of_idle h
  obtain ⟨st, r, e, rfl⟩ := exec_frame h
  exact ⟨rfl, rfl, rfl, rfl, rfl, rfl, fun _ => rfl, rfl, rfl, hres, hstatus, hlanes⟩

/-! ## The frame of a CMD write, of a host action and of a step -/

/-- A CMD write stores its word, and otherwise writes what a command writes. -/
theorem State.writeCmd_frame {s t : State} {w : U32} (h : s.writeCmd w = .next t) :
    ∃ st r e, t = { s with cmd := w, status := st, res := r, eng := e } := by
  obtain ⟨-, ⟨c, -, rfl⟩ | ⟨i, -, hi⟩⟩ := State.writeCmd_next h
  · exact ⟨_, _, _, rfl⟩
  · exact exec_frame hi

theorem ActionNext.faulted {s t : State} {a : HostAction} (h : ActionNext s a t) : t.faulted = s.faulted := by
  cases h with
  | command h =>
    obtain ⟨st, r, e, rfl⟩ := State.writeCmd_frame h
    rfl
  | input r => exact s.setReg_faulted r _
  | ignored | byte | env => rfl

theorem ActionNext.schedule {s t : State} {a : HostAction} (h : ActionNext s a t) :
    t.env.schedule = s.env.schedule := by
  cases h with
  | command h =>
    obtain ⟨st, r, e, rfl⟩ := State.writeCmd_frame h
    rfl
  | input r => rw [s.setReg_env r]
  | ignored | byte => rfl
  | env e ha he => exact he

/-- Only a CMD write changes CMD (R22). -/
theorem ActionNext.cmd {s t : State} {a : HostAction} (h : ActionNext s a t) :
    t.cmd = s.cmd ∨ ∃ v, a = .wr 0 v ∧ t.cmd = v.setWidth 32 := by
  cases h with
  | command h =>
    obtain ⟨st, r, e, rfl⟩ := State.writeCmd_frame h
    exact .inr ⟨_, rfl, rfl⟩
  | input r => exact .inl (s.setReg_cmd r _)
  | ignored | byte | env => exact .inl rfl

/-- On a block that is BUSY a host action changes nothing but the environment (R274). -/
theorem ActionNext.of_busy {s t : State} {a : HostAction} (h : ActionNext s a t) (hb : s.busy = true) :
    ∃ e, t = { s with env := e } := by
  cases h with
  | command h => cases hb.symm.trans (State.writeCmd_next h).1
  | input r hn hr hb' | byte ho hb' => cases hb.symm.trans hb'
  | ignored => exact ⟨_, rfl⟩
  | env e => exact ⟨e, rfl⟩

/-- Every step uses up one turn of the schedule (R280). -/
theorem step_schedule {s t : State} (h : step s = .next t) : t.env.schedule = s.env.schedule.tail := by
  cases step_next h with
  | reset | fault | rest | noAction => rfl
  | engine hf ht hb h =>
    obtain ⟨st, r, e, rfl⟩ := exec_frame h
    rfl
  | host hf ht hp h => exact h.schedule

/-- Settles O55: no turn but the platform's is enabled in `faulted`, and of the steps that are, one alone leaves a
record: the turn taken off and the fault recorded. -/
theorem faultedIsStuck : Obligations.FaultedIsStuck := by
  refine ⟨fun s f hf ht => step_faulted hf ht, fun s t f hf h hrec => ?_, fun s t f hf h => ?_⟩
  · cases step_next h with
    | reset => cases hrec
    | fault g =>
      cases hrec
      rfl
    | rest | noAction => cases hf.symm.trans hrec
    | engine _ _ _ h =>
      obtain ⟨st, r, e, rfl⟩ := exec_frame h
      cases hf.symm.trans hrec
    | host _ _ _ h => cases hf.symm.trans (h.faulted.symm.trans hrec)
  · have ht : s.turn = .platform := by
      by_contra ht
      cases (step_faulted hf ht).symm.trans h
    cases (step_platform ht).symm.trans h
    exact ⟨ht, rfl⟩

theorem State.hostRead_cmd (s : State) : s.hostRead 0 = .ok (s.cmd.setWidth 64) :=
  s.hostRead_of_ne_result (r := .cmd) rfl nofun nofun

/-- Settles O13: CMD is written by the frame of a CMD write and of reset only. -/
theorem cmdReadsLastWord : Obligations.CmdReadsLastWord := by
  refine ⟨rfl, fun s v => rfl, fun s t w hp h => ?_, fun s t hs h hne => ?_⟩
  · obtain ⟨st, r, e, rfl⟩ := State.writeCmd_frame h
    exact ⟨rfl, State.hostRead_cmd _⟩
  · cases step_next h with
    | reset ht => exact .inl ⟨ht, rfl⟩
    | fault | rest | noAction => exact absurd rfl hne
    | engine _ _ _ h =>
      obtain ⟨st, r, e, rfl⟩ := exec_frame h
      exact absurd rfl hne
    | host _ ht hp h =>
      obtain hc | ⟨v, rfl, hv⟩ := h.cmd
      · exact absurd hc hne
      · exact .inr ⟨ht, v, _, hp, hv⟩

/-! ## What a turn runs -/

section
variable {s : State} {a : HostAction} {rest : List HostAction} (hf : s.faulted = none) (ht : s.turn = .host)
  (hp : s.env.prog = a :: rest)
include hf ht hp

/-- A host turn runs its action on the state with the turn and the action taken off. -/
theorem step_hostAction :
    step s = s.popTurn.settle (State.hostAction { s with env := ⟨rest, s.env.schedule.tail, s.env.reads⟩ } a) := by
  rw [step_host hf ht hp]
  simp only [State.popAction, State.popTurn_env, hp, List.tail_cons]
  rfl

theorem step_host_next {t : State}
    (h : State.hostAction { s with env := ⟨rest, s.env.schedule.tail, s.env.reads⟩ } a = .next t) :
    step s = .next t := by
  rw [step_hostAction hf ht hp, h]
  rfl

theorem step_host_fault {f : Fault}
    (h : State.hostAction { s with env := ⟨rest, s.env.schedule.tail, s.env.reads⟩ } a = .fault f) :
    step s = .next { s with faulted := some f, env := { s.env with schedule := s.env.schedule.tail } } := by
  rw [step_hostAction hf ht hp, h]
  rfl

end

/-- A host with nothing left to do uses up the turn (log entry 4). -/
theorem step_noAction {s : State} (hf : s.faulted = none) (ht : s.turn = .host) (hp : s.env.prog = []) :
    step s = .next s.popTurn := by
  simp [step, State.takeTurn, ht, State.enabledTurn, State.hostTurn, hf, hp, State.settle]

/-- An engine that runs nothing uses up the turn (log entry 4). -/
theorem step_engine_notBusy {s : State} (hf : s.faulted = none) (ht : s.turn = .engine) (hb : s.status.state ≠ .busy) :
    step s = .next s.popTurn := by
  simp [step, State.takeTurn, ht, State.enabledTurn, State.engineTurn, hf, State.busy, hb, State.settle]

section
variable {s : State} {f : Fault}

theorem State.hostAction_rd_ok {n : Nat} {v : U64} (h : s.hostRead n = .ok v) :
    s.hostAction (.rd n) = .next (s.observe (.reg n) v) := by
  simp only [State.hostAction, h]

theorem State.hostAction_rd_error {n : Nat} (h : s.hostRead n = .error f) : s.hostAction (.rd n) = .fault f := by
  simp only [State.hostAction, h]

theorem State.hostAction_rdb_ok {off : Nat} {b : Byte} (h : s.readByte off = .ok b) :
    s.hostAction (.rdb off) = .next (s.observe (.byte off) (b.setWidth 64)) := by
  simp only [State.hostAction, h]

theorem State.hostAction_rdb_error {off : Nat} (h : s.readByte off = .error f) :
    s.hostAction (.rdb off) = .fault f := by
  simp only [State.hostAction, h]

theorem State.hostAction_mov_ok {dst src hi lo : Nat} {v : U64} (h : s.hostRead src = .ok v) :
    s.hostAction (.mov dst src hi lo) = .next ((s.observe (.reg src) v).pushAction (.wr dst (fieldOf v hi lo))) := by
  simp only [State.hostAction, h]

theorem State.hostAction_wait_busy (hb : s.status.state = .busy) :
    s.hostAction .wait = .next ((s.observe (.reg 1) (s.value .status)).pushAction .wait) :=
  if_pos (State.busy_iff.mpr hb)

theorem State.hostAction_wait_ready (hb : s.status.state ≠ .busy) :
    s.hostAction .wait = .next (s.observe (.reg 1) (s.value .status)) :=
  if_neg (mt State.busy_iff.mp hb)

theorem State.hostAction_mov_error {dst src hi lo : Nat} (h : s.hostRead src = .error f) :
    s.hostAction (.mov dst src hi lo) = .fault f := by
  simp only [State.hostAction, h]

end

/-- A field inside the value, as the shifts that drop the bits above it and then those below it (R9). -/
theorem fieldOf_eq_shifts {v : U64} {hi lo : Nat} (hlo : lo ≤ hi) (hhi : hi < 64) :
    fieldOf v hi lo = v <<< (63 - hi) >>> (63 - hi) >>> lo := by
  refine BitVec.eq_of_getLsbD_eq fun j hj => ?_
  have hdrop : 63 - hi + (lo + j) - (63 - hi) = lo + j := by omega
  have hfield : 63 - hi + (lo + j) < 64 ↔ j < hi + 1 - lo := by omega
  simp [fieldOf, hj, hdrop, hfield]

/-- Settles O45: both turns run the meaning and settle its answer, which is the record of a fault. -/
theorem stepRunsDecodedCommand : Obligations.StepRunsDecodedCommand := by
  intro s hf recorded
  have hrec : s.popTurn.settle = recorded := by
    funext a
    cases a <;> rfl
  refine ⟨fun v rest i ht hp hb hd => ?_, fun ht hb => ?_⟩
  · have hw := State.writeCmd_of_decode_ok (s := { s with env := ⟨rest, s.env.schedule.tail, s.env.reads⟩ }) hb hd
    rw [step_hostAction hf ht hp, hrec]
    exact congrArg recorded hw
  · rw [step_engine hf ht hb, hrec]
    rfl

/-- Settles O56: the two actions' host reads, each read's value observed and the next action pushed. -/
theorem waitAndMov : Obligations.WaitAndMov := by
  refine fun s rest hf ht => ⟨fun hp => ?_, fun dst src hi lo v hp hlo hhi hr => ?_, fun dst src hi lo f hp hr => ?_⟩
  · by_cases hb : s.status.state = .busy
    · rw [if_pos hb]
      exact step_host_next hf ht hp (State.hostAction_wait_busy hb)
    · rw [if_neg hb]
      exact step_host_next hf ht hp (State.hostAction_wait_ready hb)
  · rw [← fieldOf_eq_shifts hlo hhi]
    exact step_host_next hf ht hp (State.hostAction_mov_ok hr)
  · exact step_host_fault hf ht hp (State.hostAction_mov_error hr)

/-- Settles O57: each clause is the action's access in one of its outcomes. -/
theorem hostActionsStep : Obligations.HostActionsStep := by
  intro s rest hf ht u seen stuck
  refine ⟨fun n v hp hr => step_host_next hf ht hp (State.hostAction_rd_ok hr),
    fun n f hp hr => step_host_fault hf ht hp (State.hostAction_rd_error hr),
    fun off b hp hr => step_host_next hf ht hp (State.hostAction_rdb_ok hr),
    fun off f hp hr => step_host_fault hf ht hp (State.hostAction_rdb_error hr),
    fun off b hp ho hb => step_host_next hf ht hp (State.hostWriteByte_of_not_busy (s := u) ho hb),
    fun off b hp ho => step_host_fault hf ht hp (State.hostWriteByte_of_ge (s := u) ho),
    fun off b hp ho hb => step_host_fault hf ht hp (State.hostWriteByte_of_busy (s := u) ho hb),
    fun n v hp => ?_, fun hp => ?_⟩
  · rw [step_hostAction hf ht hp, State.hostAction]
    cases u.hostWrite n v <;> rfl
  · exact step_noAction hf ht hp

end Sys2Proof.Machine
end

section
/-! PROOFS. The invariant of the machine is kept by every step (10_state.md sections 1 to 3, 20_memory.md R60), and what
it says of STATE and of a running command's inputs (R24, 70_reset_and_hazards.md R274, R279). -/

namespace Sys2Proof.Machine

/-! ## Each update keeps the invariant -/

/-- The invariant does not look at the environment or at the fault record. -/
theorem State.Inv.frame {s : State} (hs : s.Inv) (f : Option Fault) (e : Env) :
    State.Inv { s with faulted := f, env := e } := by
  obtain ⟨hwf, hwithin, hphase, herr, hfresh, hres, hrun⟩ := hs
  refine ⟨hwf, hwithin, hphase, herr, hfresh, hres, fun hb => ?_⟩
  obtain ⟨hword, hlegal, hin, hexec, hkey, hblk, hdone⟩ := hrun hb
  exact ⟨hword, hlegal, hin, hexec, hkey, hblk, hdone⟩

section
variable {s : State} (hs : s.Inv)
include hs

theorem State.Inv.complete (v : U128) : (s.complete v).Inv where
  bufWf := hs.bufWf
  bufWithin := hs.bufWithin
  phaseIdle := by simp
  errCode := by simp
  fresh := nofun
  result := fun _ => rfl
  running := nofun

theorem State.Inv.phase_idle (hb : s.busy = false) : s.eng.phase = .idle :=
  hs.phaseIdle.mpr (State.not_busy_iff.mp hb)

theorem State.Inv.phase_ne_idle (hb : s.status.state = .busy) : s.eng.phase ≠ .idle :=
  fun hp => hs.phaseIdle.mp hp hb

theorem State.Inv.rejected (hb : s.busy = false) (w : U32) {c : ErrCode} (hc : c ≠ .noError) :
    (Claims.rejected { s with cmd := w } c).Inv where
  bufWf := hs.bufWf
  bufWithin := hs.bufWithin
  phaseIdle := by simp [Claims.rejected, hs.phase_idle hb]
  errCode := by simp [Claims.rejected, hc]
  fresh := nofun
  result := nofun
  running := nofun

/-- An accepted command runs: its phase is EXEC or INIT, in which there is no claim about the block counter yet. -/
theorem State.Inv.start {w : U32} {i : Instr} {p : Phase} (hd : decode w = .ok i) (hw : i.wf = true)
    (hr : i.reads.all s.written = true) (hp : p = .exec ∧ i.fullHash = false ∨ p = .init ∧ i.fullHash = true ∧
      s.keyLength ≤ s.cfg.bufBytes.toNat ∧ s.keyWritten s.keyLength = true) :
    (State.start { s with cmd := w } i p).Inv where
  bufWf := hs.bufWf
  bufWithin := hs.bufWithin
  phaseIdle := by obtain ⟨rfl, -⟩ | ⟨rfl, -⟩ := hp <;> simp
  errCode := by simp
  fresh := nofun
  result := nofun
  running := fun _ =>
    { word := hd
      legal := hw
      inputs := hr
      phase := by obtain ⟨rfl, hf⟩ | ⟨rfl, hf, -⟩ := hp <;> simp [hf]
      key := fun hf => by
        obtain ⟨-, hf'⟩ | ⟨-, -, hkey⟩ := hp
        · cases hf.symm.trans hf'
        · exact hkey
      block := by obtain ⟨rfl, -⟩ | ⟨rfl, -⟩ := hp <;> simp
      blocksDone := by obtain ⟨rfl, -⟩ | ⟨rfl, -⟩ := hp <;> simp }

/-- A full hash that runs on may move to any of its phases in which its block counter is legal. -/
theorem State.Inv.advance (hb : s.status.state = .busy) (hf : s.eng.cmd.fullHash = true) {p : Phase} {l : Quad U64}
    {b : Nat} (hidle : p ≠ .idle) (hexec : p ≠ .exec)
    (hblk : p = .block → b < s.nBlocks (blockBytes s.eng.cmd))
    (hdone : p = .tail ∨ p = .final → b = s.nBlocks (blockBytes s.eng.cmd)) :
    State.Inv { s with eng := ⟨p, s.eng.cmd, l, b⟩ } := by
  obtain ⟨hwf, hwithin, -, herr, hfresh, hres, hrun⟩ := hs
  obtain ⟨hword, hlegal, hin, -, hkey, -⟩ := hrun hb
  exact ⟨hwf, hwithin, by simp [hb, hidle], herr, hfresh, hres,
    fun _ => ⟨hword, hlegal, hin, by simp [hexec, hf], hkey, hblk, hdone⟩⟩

/-- A write of an input register of a block that is not BUSY. -/
theorem State.Inv.setReg (hb : s.busy = false) (r : Reg) (v : U64) : (s.setReg r v).Inv where
  bufWf := by simpa using hs.bufWf
  bufWithin := by simpa using hs.bufWithin
  phaseIdle := by simpa using hs.phaseIdle
  errCode := by simpa using hs.errCode
  fresh := by simpa using hs.fresh
  result := by simpa using hs.result
  running := fun h => absurd (by simpa using h) (State.not_busy_iff.mp hb)

/-- A write of a key byte of a block that is not BUSY. -/
theorem State.Inv.setByte (hb : s.busy = false) {off : Nat} (ho : off < s.cfg.bufBytes.toNat) (v : Byte) :
    (s.setByte off v).Inv where
  bufWf := Memory.wf_write off v hs.bufWf
  bufWithin := Memory.within_write v hs.bufWithin ho
  phaseIdle := hs.phaseIdle
  errCode := hs.errCode
  fresh := hs.fresh
  result := hs.result
  running := fun h => absurd h (State.not_busy_iff.mp hb)

/-! ## Each agent keeps it -/

/-- An engine step of the running command (R36). -/
theorem State.Inv.exec_running {t : State} (hb : s.status.state = .busy) (h : exec s.eng.cmd s = .next t) : t.Inv := by
  have hrun := hs.running hb
  cases exec_next h with
  | badRotate hp | accept hp => exact absurd hp (hs.phase_ne_idle hb)
  | exec v | final v => exact hs.complete v
  | init l hp hc hf =>
    by_cases hn : 0 < s.nBlocks (blockBytes s.eng.cmd)
    · rw [State.stepInit, if_pos hn]
      exact hs.advance hb hf nofun nofun (fun _ => hn) nofun
    · rw [State.stepInit, if_neg hn]
      exact hs.advance hb hf nofun nofun nofun fun _ => by omega
  | block l hp hc hf =>
    have hlt := hrun.block hp
    by_cases hn : s.eng.blk + 1 = s.nBlocks (blockBytes s.eng.cmd)
    · rw [State.stepBlock, if_pos hn]
      exact hs.advance hb hf nofun nofun nofun fun _ => hn
    · rw [State.stepBlock, if_neg hn]
      exact hs.advance hb hf nofun nofun (fun _ => by omega) nofun
  | tail l hp hc hf => exact hs.advance hb hf nofun nofun nofun fun _ => hrun.blocksDone (.inl hp)

/-- A CMD write (R35). -/
theorem State.Inv.writeCmd {t : State} {w : U32} (h : s.writeCmd w = .next t) : t.Inv := by
  obtain ⟨hb, ⟨c, hd, rfl⟩ | ⟨i, hd, hi⟩⟩ := State.writeCmd_next h
  · exact hs.rejected hb w (decodeCheck_of_decode_error hd).2
  · rw [exec_idle (s := { s with cmd := w }) (hs.phase_idle hb)] at hi
    split_ifs at hi with hw
    · obtain ⟨hr, ⟨hf, rfl⟩ | ⟨-, -, rfl⟩ | ⟨hf, hlen, hkey, rfl⟩⟩ := State.accept_next hi
      · exact hs.start hd hw hr (.inl ⟨rfl, hf⟩)
      · exact hs.rejected hb w nofun
      · exact hs.start hd hw hr (.inr ⟨rfl, hf, hlen, hkey⟩)
    · cases hi
      exact hs.rejected hb w nofun

theorem ActionNext.inv {t : State} {a : HostAction} (h : ActionNext s a t) : t.Inv := by
  cases h with
  | command h => exact hs.writeCmd h
  | input r hn hr hb => exact hs.setReg hb r _
  | ignored => exact hs
  | byte ho hb => exact hs.setByte hb ho _
  | env e => exact hs.frame s.faulted e

theorem State.Inv.step {t : State} (h : step s = .next t) : t.Inv := by
  cases step_next h with
  | reset => exact resetBlock_inv _
  | fault f => exact hs.frame (some f) s.popTurn.env
  | rest | noAction => exact hs.frame s.faulted s.popTurn.env
  | engine hf ht hb h => exact (hs.frame s.faulted s.popTurn.env).exec_running (State.busy_iff.mp hb) h
  | host hf ht hp h => exact h.inv (hs.frame s.faulted s.popTurn.popAction.env)

end

/-- Settles O47: reset establishes the invariant, and the engine's and the host's turns keep it update by update. -/
theorem stepKeepsInvariant : Obligations.StepKeepsInvariant := fun _ _ hs => hs.step

/-! ## What a step of a running block leaves -/

/-- The steps of a running command leave the engine's command (R36). -/
theorem exec_keeps_running_cmd {i : Instr} {s t : State} (hp : s.eng.phase ≠ .idle) (h : exec i s = .next t) :
    t.eng.cmd = s.eng.cmd := by
  cases exec_next h with
  | badRotate hq | accept hq => exact absurd hq hp
  | exec | init | block | tail | final => rfl

/-- Settles O52: the command's frame on an engine turn; a host turn changes only the environment. -/
theorem inputsStableWhileBusy : Obligations.InputsStableWhileBusy := by
  intro s t hs hb ht h
  cases step_next h with
  | reset ht' => exact absurd ht' ht
  | fault | rest | noAction => exact ⟨rfl, rfl, rfl, rfl, rfl, rfl, rfl, fun _ => rfl⟩
  | engine _ _ _ h =>
    have hcmd := exec_keeps_running_cmd (s := s.popTurn) (hs.phase_ne_idle hb) h
    obtain ⟨st, r, e, rfl⟩ := exec_frame h
    exact ⟨rfl, rfl, rfl, rfl, rfl, rfl, rfl, fun _ => hcmd⟩
  | host _ _ _ h =>
    obtain ⟨e, rfl⟩ := h.of_busy (State.busy_iff.mpr hb)
    exact ⟨rfl, rfl, rfl, rfl, rfl, rfl, rfl, fun _ => rfl⟩

/-- Settles O54: of the steps that write STATUS, the completion step's result is the invariant's clause for DONE, and a
CMD write's outcomes are those of an idle engine. -/
theorem stateTransitions : Obligations.StateTransitions := by
  intro s t hs h hne
  have htInv := hs.step h
  cases step_next h with
  | reset ht => exact .inl ⟨ht, rfl⟩
  | fault | rest | noAction => exact absurd rfl hne
  | engine _ hturn hb h =>
    have hbusy := State.busy_iff.mp hb
    obtain hst | hst := exec_status_running (s := s.popTurn) (hs.phase_ne_idle hbusy) h
    · exact absurd (congrArg Status.state hst) hne
    · have hdone : t.status.state = .done := congrArg Status.state hst
      exact .inr (.inr ⟨hturn, hbusy, hdone, htInv.result hdone⟩)
  | host _ hturn hp h =>
    obtain hst | ⟨v, rfl, hw⟩ := h.status
    · exact absurd (congrArg Status.state hst) hne
    · have hb : s.busy = false := (State.writeCmd_next hw).1
      have hout := State.writeCmd_busy_or_error (s := s.popTurn.popAction) (hs.phase_idle hb) hw
      obtain ⟨st, r, e, rfl⟩ := State.writeCmd_frame hw
      exact .inr (.inl ⟨hturn, State.not_busy_iff.mp hb, hout, v, _, hp, rfl⟩)

end Sys2Proof.Machine
end

section
/-! PROOFS. Little-endian words: the bits of a word, the word of some of the bytes, reads of the same bytes at different
widths (20_memory.md R62, R67), and the words the full hashes read off a key (R63, R66). -/

namespace Sys2Proof.Machine

open Claims

/-! ## The bits of a little-endian word -/

theorem getLsbD_leWord (bs : List Byte) {i : Nat} (hi : i < 64) :
    (leWord bs).getLsbD i = (bs.getD (i / 8) 0).getLsbD (i % 8) := by
  induction bs generalizing i with
  | nil => simp [leWord]
  | cons b bs ih =>
    by_cases h : i < 8
    · simp [leWord, hi, h, Nat.div_eq_of_lt h, Nat.mod_eq_of_lt h]
    · obtain ⟨j, rfl⟩ := Nat.exists_eq_add_of_le' (Nat.le_of_not_lt h)
      have hj := ih (i := j) (by omega)
      rw [BitVec.getLsbD_eq_getElem (by omega)] at hj
      simpa [leWord, hi] using hj

/-- The word of the first `n` bytes is the word with the other bytes masked off. -/
theorem leWord_take (bs : List Byte) (n : Nat) : leWord (bs.take n) = keepBytes (leWord bs) n := by
  refine BitVec.eq_of_getLsbD_eq fun i hi => ?_
  rw [getLsbD_keepBytes, getLsbD_leWord _ hi, getLsbD_leWord _ hi, List.getD_eq_getElem?_getD, List.getElem?_take]
  by_cases h : i < 8 * n
  · rw [if_pos (by omega), ← List.getD_eq_getElem?_getD]
    simp [h]
  · rw [if_neg (by omega)]
    simp [h]

theorem getLsbD_leWord_drop (bs : List Byte) (off : Nat) {i : Nat} (hi : i < 64) :
    (leWord (bs.drop off)).getLsbD i = (bs.getD (off + i / 8) 0).getLsbD (i % 8) := by
  rw [getLsbD_leWord _ hi, List.getD_eq_getElem?_getD, List.getElem?_drop, ← List.getD_eq_getElem?_getD]

/-- A word has no bits above its bytes. -/
theorem getLsbD_leWord_of_ge {bs : List Byte} {i : Nat} (h : 8 * bs.length ≤ i) : (leWord bs).getLsbD i = false := by
  by_cases hi : i < 64
  · rw [getLsbD_leWord _ hi, List.getD_eq_default _ _ (by omega)]
    simp
  · exact BitVec.getLsbD_of_ge _ _ (by omega)

theorem leWord_append_list (as bs : List Byte) : leWord (as ++ bs) = leWord as ||| (leWord bs <<< (8 * as.length)) := by
  induction as with
  | nil => simp [leWord]
  | cons a as ih =>
    have h : 8 * (as.length + 1) = 8 * as.length + 8 := by ring
    simp only [List.cons_append, leWord, ih, List.length_cons, h, BitVec.shiftLeft_or_distrib, BitVec.shiftLeft_add,
      BitVec.or_assoc]

/-! ## What `MemRead` returns is the word of the bytes it reads -/

/-- The bytes from offset `off` on read as `bs`. -/
def State.ReadsBytes (s : State) (off : Nat) (bs : List Byte) : Prop :=
  ∀ i (h : i < bs.length), s.readByte (off + i) = .ok bs[i]

section
variable {s : State} {off : Nat}

theorem State.ReadsBytes.append {as bs : List Byte} :
    s.ReadsBytes off (as ++ bs) ↔ s.ReadsBytes off as ∧ s.ReadsBytes (off + as.length) bs := by
  constructor
  · refine fun h => ⟨fun i hi => ?_, fun i hi => ?_⟩
    · rw [h i (by simp; omega), List.getElem_append_left]
    · rw [Nat.add_assoc, h (as.length + i) (by simp; omega), List.getElem_append_right (by omega)]
      simp
  · intro ⟨ha, hb⟩ i hi
    by_cases hlt : i < as.length
    · rw [ha i hlt, List.getElem_append_left]
    · obtain ⟨j, rfl⟩ := Nat.exists_eq_add_of_le (Nat.le_of_not_lt hlt)
      rw [← Nat.add_assoc, hb j (by simpa using hi), List.getElem_append_right (by omega)]
      simp

theorem State.ReadsBytes.memRead {bs : List Byte} (h : s.ReadsBytes off bs) :
    s.memRead off bs.length = .ok (leWord bs) := by
  induction bs using List.reverseRecOn with
  | nil => rfl
  | append_singleton bs b ih =>
    obtain ⟨hbs, hb⟩ := State.ReadsBytes.append.mp h
    have hlast : s.readByte (off + bs.length) = .ok b := hb 0 (by simp)
    simp only [List.length_append, List.length_singleton, State.memRead, ih hbs, hlast, leWord_append]

theorem State.memRead_ok {n : Nat} {v : U64} (h : s.memRead off n = .ok v) :
    ∃ bs, bs.length = n ∧ s.ReadsBytes off bs ∧ v = leWord bs := by
  induction n generalizing v with
  | zero =>
    cases h
    exact ⟨[], rfl, nofun, rfl⟩
  | succ n ih =>
    unfold State.memRead at h
    split at h
    case h_1 => cases h
    case h_2 u hu =>
      split at h <;> cases h
      case h_2 b hb =>
        obtain ⟨bs, rfl, hbs, rfl⟩ := ih hu
        refine ⟨bs ++ [b], by simp, State.ReadsBytes.append.mpr ⟨hbs, fun i hi => ?_⟩, (leWord_append bs b).symm⟩
        obtain rfl : i = 0 := by simpa using hi
        exact hb

/-- A read of the first `n` of the bytes. -/
theorem State.ReadsBytes.memRead_take {bs : List Byte} (h : s.ReadsBytes off bs) {n : Nat} (hn : n ≤ bs.length) :
    s.memRead off n = .ok (keepBytes (leWord bs) n) := by
  rw [← List.take_append_drop n bs] at h
  have hread := (State.ReadsBytes.append.mp h).1.memRead
  rwa [List.length_take_of_le hn, leWord_take] at hread

/-- A read of the bytes after the first `n`. -/
theorem State.ReadsBytes.memRead_drop {bs : List Byte} (h : s.ReadsBytes off bs) {n : Nat} (hn : n ≤ bs.length) :
    s.memRead (off + n) (bs.length - n) = .ok (leWord (bs.drop n)) := by
  rw [← List.take_append_drop n bs] at h
  have hread := (State.ReadsBytes.append.mp h).2.memRead
  rwa [List.length_take_of_le hn, List.length_drop] at hread

end

theorem keepBytes_four_eq_low (v : U64) : keepBytes v 4 = (v.extractLsb' 0 32).setWidth 64 := by
  refine BitVec.eq_of_getLsbD_eq fun i hi => ?_
  rw [getLsbD_keepBytes]
  simp [hi]

theorem leWord_drop_four {bs : List Byte} (h : bs.length = 8) :
    leWord (bs.drop 4) = ((leWord bs).extractLsb' 32 32).setWidth 64 := by
  refine BitVec.eq_of_getLsbD_eq fun i hi => ?_
  by_cases h32 : i < 32
  · have hdiv : (32 + i) / 8 = 4 + i / 8 := by omega
    have hmod : (32 + i) % 8 = i % 8 := by omega
    rw [getLsbD_leWord_drop _ _ hi]
    simp [hi, h32, getLsbD_leWord bs (i := 32 + i) (by omega), hdiv, hmod]
  · rw [getLsbD_leWord_of_ge (by rw [List.length_drop]; omega)]
    simp [h32]

/-- Settles O43: a read is the word of the bytes it reads; two reads that follow on each other are one read of their
bytes appended, and a shorter read is one of the first bytes. -/
theorem mixedWidthReads : Obligations.MixedWidthReads := by
  refine fun s off => ⟨fun v h => ?_, fun lo hi hlo hhi => ?_, fun w t v hw ht h => ?_⟩
  · obtain ⟨bs, hlen, hbs, rfl⟩ := State.memRead_ok h
    have hlow := hbs.memRead_take (n := 4) (by omega)
    have hhigh := hbs.memRead_drop (n := 4) (by omega)
    rw [keepBytes_four_eq_low] at hlow
    rw [leWord_drop_four hlen, hlen] at hhigh
    exact ⟨hlow, hhigh⟩
  · obtain ⟨as, hlas, has, rfl⟩ := State.memRead_ok hlo
    obtain ⟨bs, hlbs, hbs, rfl⟩ := State.memRead_ok hhi
    have hread := (State.ReadsBytes.append.mpr ⟨has, hlas ▸ hbs⟩).memRead
    rwa [List.length_append, hlas, hlbs, leWord_append_list, hlas] at hread
  · obtain ⟨bs, hlen, hbs, rfl⟩ := State.memRead_ok h
    exact hbs.memRead_take (hlen ▸ ht)

/-! ## The words of a key -/

theorem leWord_drop_succ (key : List Byte) (a : Nat) :
    leWord (key.drop a) = byteAt key a ||| (leWord (key.drop (a + 1)) <<< 8) := by
  by_cases h : a < key.length
  · rw [List.drop_eq_getElem_cons h, leWord, byteAt, List.getD_eq_getElem _ _ h]
  · rw [List.drop_eq_nil_of_le (by omega), List.drop_eq_nil_of_le (by omega), byteAt,
      List.getD_eq_default _ _ (by omega)]
    rfl

/-- The four-byte word is the low half of the word of all bytes that follow. -/
theorem keyWord32_eq (key : List Byte) (off : Nat) : keyWord32 key off = (leWord (key.drop off)).setWidth 32 := by
  have h : leWord (key.drop off) =
      (byteAt key off ||| (byteAt key (off + 1) <<< 8) ||| (byteAt key (off + 2) <<< 16) |||
        (byteAt key (off + 3) <<< 24)) ||| (leWord (key.drop (off + 4)) <<< 32) := by
    rw [leWord_drop_succ, leWord_drop_succ key (off + 1), leWord_drop_succ key (off + 2),
      leWord_drop_succ key (off + 3)]
    simp only [BitVec.shiftLeft_or_distrib, ← BitVec.shiftLeft_add, BitVec.or_assoc, Nat.reduceAdd]
  refine BitVec.eq_of_getLsbD_eq fun i hi => ?_
  rw [h, BitVec.setWidth_or, BitVec.getLsbD_or]
  simp [keyWord32, hi]

theorem keyWord64_eq (key : List Byte) (off : Nat) : keyWord64 key off = leWord (key.drop off) := by
  refine BitVec.eq_of_getLsbD_eq fun i hi => ?_
  rw [keyWord64, keyWord32_eq, keyWord32_eq]
  by_cases h : i < 32
  · simp [h, hi]
  · obtain ⟨j, rfl⟩ := Nat.exists_eq_add_of_le' (Nat.le_of_not_lt h)
    rw [getLsbD_leWord_drop _ _ hi]
    simp [hi, getLsbD_leWord_drop key (off + 4) (show j < 64 by omega), show j < 32 by omega,
      show off + 4 + j / 8 = off + (j + 32) / 8 by omega, show (j + 32) % 8 = j % 8 by omega]

theorem keepBytes_setWidth (k : U64) (m : Nat) : (keepBytes k m).setWidth 32 = keepBytes (k.setWidth 32) m := by
  refine BitVec.eq_of_getLsbD_eq fun i hi => ?_
  rw [BitVec.getLsbD_setWidth, getLsbD_keepBytes, getLsbD_keepBytes, BitVec.getLsbD_setWidth, Bool.and_left_comm]

theorem keepBytes_four (k : U32) : keepBytes k 4 = k := BitVec.and_allOnes

theorem keepBytes_keepBytes {w : Nat} (k : BitVec w) (m : Nat) : keepBytes (keepBytes k m) m = keepBytes k m := by
  rw [keepBytes, keepBytes, BitVec.and_assoc, BitVec.and_self]

/-- What the engine reads of `n` key bytes is the eight-byte word, masked (R63). -/
theorem leWord_keySlice (key : List Byte) (off n : Nat) :
    leWord (keySlice key off n) = keepBytes (keyWord64 key off) n := by
  rw [keySlice, leWord_take, keyWord64_eq]

theorem setWidth_leWord_keySlice (key : List Byte) (off n : Nat) :
    (leWord (keySlice key off n)).setWidth 32 = keepBytes (keyWord32 key off) n := by
  rw [leWord_keySlice, keepBytes_setWidth, keyWord64_eq, keyWord32_eq]

end Sys2Proof.Machine
end

section
/-! PROOFS. Acceptance in its check order (10_state.md R35, 60_exceptions.md R243), for a full hash and for a CMD
write. -/

namespace Sys2Proof.Machine

open Claims

/-! ## Acceptance of a full hash -/

section
variable {s : State} {i : Instr} (hf : i.fullHash = true) (hr : ∀ r ∈ i.reads, s.written r = true)
include hf hr

theorem State.accept_of_long (hl : s.cfg.bufBytes.toNat < s.keyLength) :
    s.accept i = .next (rejected s .lenRange) := by
  rw [State.accept, if_neg (by simpa using hr), if_neg (by simp [hf]), if_pos hl]
  rfl

variable (hl : s.keyLength ≤ s.cfg.bufBytes.toNat)
include hl

theorem State.accept_of_unwrittenByte (hk : ∃ a, a < s.keyLength ∧ s.buf.read a = none) :
    s.accept i = .fault .unwrittenRead := by
  have hw : ¬ s.keyWritten s.keyLength = true := fun h => by
    obtain ⟨a, ha, hread⟩ := hk
    exact State.keyWritten_iff.mp h a ha hread
  rw [State.accept, if_neg (by simpa using hr), if_neg (by simp [hf]), if_neg (Nat.not_lt_of_le hl),
    if_pos (by simpa using hw)]

theorem State.accept_of_key (hk : ∀ a, a < s.keyLength → s.buf.read a ≠ none) :
    s.accept i = .next (accepted s i .init) := by
  have hw : s.keyWritten s.keyLength = true := State.keyWritten_iff.mpr hk
  rw [State.accept, if_neg (by simpa using hr), if_neg (by simp [hf]), if_neg (Nat.not_lt_of_le hl),
    if_neg (by simp [hw])]
  rfl

end

/-- A full hash has no field to be illegal (R92), and reads SEED and KEY_LEN (R95). -/
theorem fullHash_wf_reads {i : Instr} (hf : i.fullHash = true) : i.wf = true ∧ i.reads = [.seed, .keyLen] := by
  cases i with
  | hash32 | hash128X64 | hash128X86 => exact ⟨rfl, rfl⟩
  | _ => cases hf

theorem acceptsHash {i : Instr} (hf : i.fullHash = true) : AcceptsHash i := by
  obtain ⟨hw, hreads⟩ := fullHash_wf_reads hf
  intro s hp
  rw [exec_idle hp, if_pos hw]
  refine ⟨fun hu => State.accept_of_unwritten ?_, fun hseed hlen => ?_⟩
  · simpa [hreads, State.written] using hu
  · have hr : ∀ r ∈ i.reads, s.written r = true := by simp [hreads, State.written, hseed, hlen]
    exact ⟨State.accept_of_long hf hr,
      fun hl => ⟨State.accept_of_unwrittenByte hf hr hl, State.accept_of_key hf hr hl⟩⟩

/-! ## A CMD write -/

theorem decode_of_decodeCheck {w : U32} (hc : decodeCheck w = .noError) : ∃ i, decode w = .ok i ∧ i.wf = true :=
  (decoderFollowsDecodeCheck w).1.mp hc

section
variable {s : State} {w : U32} (hb : s.status.state ≠ .busy) (hp : s.eng.phase = .idle)
include hb hp

/-- A word that `decode_check` rejects is rejected with that code, by the decoder or, a rotate by an illegal amount, at
acceptance (R94). -/
theorem State.writeCmd_of_badWord (hc : decodeCheck w ≠ .noError) :
    s.writeCmd w = .next (rejected { s with cmd := w } (decodeCheck w)) := by
  cases hd : decode w with
  | error c =>
    rw [(decodeCheck_of_decode_error hd).1]
    exact State.writeCmd_of_decode_error hb hd
  | ok i =>
    have hcode := decodeCheck_of_decode_ok hd
    cases hw : i.wf with
    | true => exact absurd (hcode.trans (by simp [hw])) hc
    | false =>
      rw [hcode, hw]
      exact State.writeCmd_of_decode_illFormed hb hp hd hw

/-- A word that passes `decode_check` goes to acceptance, with CMD written. -/
theorem State.writeCmd_of_goodWord {i : Instr} (hc : decodeCheck w = .noError) (hd : decode w = .ok i) :
    s.writeCmd w = State.accept { s with cmd := w } i := by
  obtain ⟨j, hj, hw⟩ := decode_of_decodeCheck hc
  cases hj.symm.trans hd
  rw [State.writeCmd_of_decode_ok hb hd, exec_idle (s := { s with cmd := w }) hp, if_pos hw]

end

/-- Settles O16: the busy check, then the word's code, then acceptance's checks of the state with CMD written; in a step
a fault of the write is settled as its record. -/
theorem acceptanceCheckOrder : Obligations.AcceptanceCheckOrder := by
  refine ⟨fun s w hs => ⟨State.writeCmd_of_busy, fun hb => ?_⟩, fun s v rest f hf ht hprog hw =>
    step_host_fault hf ht hprog hw⟩
  intro u
  have hp := hs.phaseIdle.mpr hb
  refine ⟨State.writeCmd_of_badWord hb hp, fun i hc hd => ?_⟩
  have hmarks : ∀ r, u.written r = s.written r := fun r => by cases r <;> rfl
  rw [State.writeCmd_of_goodWord hb hp hc hd]
  simp only [← hmarks]
  exact ⟨State.accept_of_unwritten, fun hr => ⟨fun hf => State.accept_of_written hf hr,
    fun hf => State.accept_of_long hf hr,
    fun hf hl => ⟨State.accept_of_unwrittenByte hf hr hl, State.accept_of_key hf hr hl⟩⟩⟩

end Sys2Proof.Machine
end

section
/-! PROOFS. The full hashes: each engine step as a function of the lanes and the key (10_state.md R36;
41_hash32.md R160, 42_hash128_x64.md R192, 43_hash128_x86.md R222), the engine's run of all of them, and the digest it
computes (R154, R187, R217). -/

namespace Sys2Proof.Machine

open Claims

/-! ## A full hash as four functions of its lanes -/

/-- What a full hash makes of its lanes in INIT, BLOCK and TAIL, and the result it makes of them in FINAL, given the key
and its block size. -/
structure Pipeline where
  bs : Nat
  init : Quad U64 → U64 → Quad U64
  block : Quad U64 → List Byte → Nat → Quad U64
  tail : Quad U64 → List Byte → Quad U64
  final : Quad U64 → U32 → U128

/-- The engine runs command `i` as the pipeline `p` (R36). -/
structure RunsAs (i : Instr) (p : Pipeline) : Prop where
  bs_eq : p.bs = blockBytes i
  init {s : State} (hp : s.eng.phase = .init) (hc : s.eng.cmd = i) :
    exec i s = .next (s.stepInit p.bs (p.init s.eng.lanes s.seed.value))
  block {s : State} {key : List Byte} (h : InPhase s i .block key) (hb : s.eng.blk < key.length / p.bs) :
    exec i s = .next (s.stepBlock p.bs (p.block s.eng.lanes key s.eng.blk))
  tail {s : State} {key : List Byte} (h : InPhase s i .tail key) :
    exec i s = .next (s.stepTail (p.tail s.eng.lanes key))
  final {s : State} (hp : s.eng.phase = .final) (hc : s.eng.cmd = i) :
    exec i s = .next (s.complete (p.final s.eng.lanes s.keyLen.value))

/-- HASH32 (R160). -/
def hash32Pipeline : Pipeline where
  bs := 4
  init l seed := l.set 0 (setLow32 l.q0 (init32 seed))
  block l key b := l.set 0 (setLow32 l.q0 (mix32 (l.q0.setWidth 32) ((leWord (keySlice key (4 * b) 4)).setWidth 32)))
  tail l key :=
    let t := key.length % 4
    l.set 0 (setLow32 l.q0
      (tail32 (l.q0.setWidth 32) ((leWord (keySlice key (4 * (key.length / 4)) t)).setWidth 32) t))
  final l n := (fin32 (l.q0.setWidth 32) n).setWidth 128

/-- HASH128_X64 (R192). -/
def hash128X64Pipeline : Pipeline where
  bs := 16
  init l seed := setLanes2 l (seed, seed)
  block l key b :=
    setLanes2 l (mix64 l.q0 l.q1 (leWord (keySlice key (16 * b) 8)) (leWord (keySlice key (16 * b + 8) 8)))
  tail l key :=
    let t := key.length % 16
    let base := 16 * (key.length / 16)
    setLanes2 l (tail64 l.q0 l.q1 (leWord (keySlice key base (min t 8))) (leWord (keySlice key (base + 8) (t - 8))) t)
  final l n := fin64 l.q0 l.q1 n

/-- HASH128_X86 (R222). -/
def hash128X86Pipeline : Pipeline where
  bs := 16
  init l seed := setLow32s l (Quad.all (seed.setWidth 32))
  block l key b := setLow32s l (mix86 (l.map fun c => c.setWidth 32) (keyWords86 key (16 * b) fun _ => 4))
  tail l key :=
    let t := key.length % 16
    setLow32s l (tail86 (l.map fun c => c.setWidth 32) (keyWords86 key (16 * (key.length / 16)) (tailBytes86 t)) t)
  final l n := fin86 (l.map fun c => c.setWidth 32) n

/-! ## The engine runs the commands as their pipelines -/

section
variable {s : State} {key : List Byte} (hk : s.HoldsKey key)
include hk

theorem State.HoldsKey.nBlocks (bs : Nat) : s.nBlocks bs = key.length / bs := by rw [State.nBlocks, ← hk.1]

theorem State.HoldsKey.tailSize (bs : Nat) : s.tailSize bs = key.length % bs := by rw [State.tailSize, ← hk.1]

theorem hash32Block_of_key (hb : s.eng.blk < key.length / 4) :
    hash32Block s = .ok (hash32Pipeline.block s.eng.lanes key s.eng.blk) := by
  rw [hash32Block, hk.memRead 4 (by omega)]
  rfl

theorem hash32Tail_of_key : hash32Tail s = .ok (hash32Pipeline.tail s.eng.lanes key) := by
  rw [hash32Tail, hk.nBlocks, hk.tailSize, hk.memRead _ (by omega)]
  rfl

theorem hash128X64Block_of_key (hb : s.eng.blk < key.length / 16) :
    hash128X64Block s = .ok (hash128X64Pipeline.block s.eng.lanes key s.eng.blk) := by
  rw [hash128X64Block, hk.memRead2 (by omega) (by omega)]
  rfl

theorem hash128X64Tail_of_key : hash128X64Tail s = .ok (hash128X64Pipeline.tail s.eng.lanes key) := by
  simp only [hash128X64Tail, hk.nBlocks, hk.tailSize]
  rw [hk.memRead2 (by omega) (by omega)]
  rfl

theorem hash128X86Block_of_key (hb : s.eng.blk < key.length / 16) :
    hash128X86Block s = .ok (hash128X86Pipeline.block s.eng.lanes key s.eng.blk) := by
  rw [hash128X86Block, hk.memRead86 fun j => by omega]
  rfl

theorem hash128X86Tail_of_key : hash128X86Tail s = .ok (hash128X86Pipeline.tail s.eng.lanes key) := by
  rw [hash128X86Tail, hk.nBlocks, hk.tailSize, hk.memRead86 fun j => by unfold tailBytes86; omega]
  rfl

end

section
variable {s : State} {i : Instr} {bs : Nat} {init : Quad U64} {block tail : Except Fault (Quad U64)} {final : U128}
  {l : Quad U64} (hc : s.eng.cmd = i)
include hc

theorem State.hashStep_init (hp : s.eng.phase = .init) :
    s.hashStep i bs init block tail final = .next (s.stepInit bs init) := by
  simp only [State.hashStep, hp, State.running_self hc]

theorem State.hashStep_block (hp : s.eng.phase = .block) (hl : block = .ok l) :
    s.hashStep i bs init block tail final = .next (s.stepBlock bs l) := by
  simp only [State.hashStep, hp, hl, State.running_self hc]

theorem State.hashStep_tail (hp : s.eng.phase = .tail) (hl : tail = .ok l) :
    s.hashStep i bs init block tail final = .next (s.stepTail l) := by
  simp only [State.hashStep, hp, hl, State.running_self hc]

theorem State.hashStep_final (hp : s.eng.phase = .final) :
    s.hashStep i bs init block tail final = .next (s.complete final) := by
  simp only [State.hashStep, hp, State.running_self hc]

end

theorem hash32_runsAs : RunsAs .hash32 hash32Pipeline where
  bs_eq := rfl
  init hp hc := State.hashStep_init hc hp
  block := fun ⟨hp, hc, hk⟩ hb => State.hashStep_block hc hp (hash32Block_of_key hk hb)
  tail := fun ⟨hp, hc, hk⟩ => State.hashStep_tail hc hp (hash32Tail_of_key hk)
  final hp hc := State.hashStep_final hc hp

theorem hash128X64_runsAs : RunsAs .hash128X64 hash128X64Pipeline where
  bs_eq := rfl
  init hp hc := State.hashStep_init hc hp
  block := fun ⟨hp, hc, hk⟩ hb => State.hashStep_block hc hp (hash128X64Block_of_key hk hb)
  tail := fun ⟨hp, hc, hk⟩ => State.hashStep_tail hc hp (hash128X64Tail_of_key hk)
  final hp hc := State.hashStep_final hc hp

theorem hash128X86_runsAs : RunsAs .hash128X86 hash128X86Pipeline where
  bs_eq := rfl
  init hp hc := State.hashStep_init hc hp
  block := fun ⟨hp, hc, hk⟩ hb => State.hashStep_block hc hp (hash128X86Block_of_key hk hb)
  tail := fun ⟨hp, hc, hk⟩ => State.hashStep_tail hc hp (hash128X86Tail_of_key hk)
  final hp hc := State.hashStep_final hc hp

/-- Every full hash is run as a pipeline. -/
theorem exists_runsAs {i : Instr} (hf : i.fullHash = true) : ∃ p, RunsAs i p := by
  cases i with
  | hash32 => exact ⟨_, hash32_runsAs⟩
  | hash128X64 => exact ⟨_, hash128X64_runsAs⟩
  | hash128X86 => exact ⟨_, hash128X86_runsAs⟩
  | _ => cases hf

/-! ## The engine's run -/

/-- The lanes after INIT and `b` blocks (R36). -/
def Pipeline.lanesAfter (p : Pipeline) (key : List Byte) (l : Quad U64) (seed : U64) : Nat → Quad U64
  | 0 => p.init l seed
  | b + 1 => p.block (p.lanesAfter key l seed b) key b

/-- The state after INIT and `b` blocks, of a run that starts in INIT in `s`. -/
def Pipeline.stateAfter (p : Pipeline) (key : List Byte) (s : State) (b : Nat) : State :=
  { s with eng := ⟨if b = key.length / p.bs then .tail else .block, s.eng.cmd,
      p.lanesAfter key s.eng.lanes s.seed.value b, b⟩ }

/-- The result of the run: FINAL on the lanes after TAIL on the lanes after all blocks. -/
def Pipeline.result (p : Pipeline) (key : List Byte) (l : Quad U64) (seed : U64) : U128 :=
  p.final (p.tail (p.lanesAfter key l seed (key.length / p.bs)) key) (BitVec.ofNat 32 key.length)

theorem engineRun_one {s t : State} (h : exec s.eng.cmd s = .next t) : engineRun 1 s = .next t := by
  rw [engineRun, h]
  rfl

theorem State.HoldsKey.keyLen_eq {s : State} {key : List Byte} (hk : s.HoldsKey key) :
    s.keyLen.value = BitVec.ofNat 32 key.length := by
  rw [hk.1, State.keyLength, BitVec.ofNat_toNat, BitVec.setWidth_eq]

section
variable {i : Instr} {p : Pipeline} (hr : RunsAs i p) {s : State} {key : List Byte}
include hr

theorem RunsAs.engineRun_blocks (h : InPhase s i .init key) {b : Nat} (hb : b ≤ key.length / p.bs) :
    engineRun (b + 1) s = .next (p.stateAfter key s b) := by
  obtain ⟨hp, hc, hk⟩ := h
  induction b with
  | zero =>
    rw [engineRun_one (hc ▸ hr.init hp hc), State.stepInit, hk.nBlocks, Pipeline.stateAfter]
    by_cases hn : key.length / p.bs = 0
    · rw [if_neg (by omega), if_pos hn.symm]
      rfl
    · rw [if_pos (by omega), if_neg (Ne.symm hn)]
      rfl
  | succ b ih =>
    have hin : InPhase (p.stateAfter key s b) i .block key :=
      ⟨if_neg (by omega), hc, hk.congr (t := p.stateAfter key s b) rfl rfl rfl⟩
    have hstep := hr.block hin (by simpa [Pipeline.stateAfter] using hb)
    rw [engineRun_add (n := 1) (ih (by omega)), engineRun_one (hin.2.1.symm ▸ hstep), State.stepBlock,
      hin.2.2.nBlocks]
    rfl

theorem RunsAs.engineRun_tail (h : InPhase s i .tail key) :
    engineRun 2 s = .next ((s.stepTail (p.tail s.eng.lanes key)).complete
      (p.final (p.tail s.eng.lanes key) s.keyLen.value)) := by
  have hc := h.2.1
  have hfinal := hr.final (s := s.stepTail (p.tail s.eng.lanes key)) rfl hc
  rw [engineRun_add (n := 1) (engineRun_one (hc.symm ▸ hr.tail h))]
  exact engineRun_one (hc.symm ▸ hfinal)

/-- From INIT with the key in the buffer the engine completes the command with the pipeline's result. -/
theorem RunsAs.engineRun_result (h : InPhase s i .init key) :
    ∃ e : Engine, engineRun (key.length / p.bs + 3) s = .next { s with
        res := ⟨p.result key s.eng.lanes s.seed.value, true⟩
        status := ⟨.done, .noError⟩
        eng := e } ∧
      e.phase = .idle ∧ e.cmd = i := by
  have hblocks := hr.engineRun_blocks h le_rfl
  obtain ⟨-, hc, hk⟩ := h
  have hin : InPhase (p.stateAfter key s (key.length / p.bs)) i .tail key :=
    ⟨if_pos rfl, hc, hk.congr (t := p.stateAfter key s _) rfl rfl rfl⟩
  rw [engineRun_add (n := 2) hblocks, hr.engineRun_tail hin, hin.2.2.keyLen_eq]
  exact ⟨_, rfl, rfl, hc⟩

/-- A pipeline whose result does not depend on the lanes it starts from, with a digest of the key and the seed. -/
theorem RunsAs.hashResult {digest : List Byte → U64 → U128}
    (hd : ∀ key l seed, p.result key l seed = digest key seed) : HashResult i p.bs digest := by
  intro s key h
  obtain ⟨e, hrun, hp, hc⟩ := hr.engineRun_result h
  rw [hd] at hrun
  exact ⟨_, hrun, rfl, hp, hc⟩

end

/-! ## The lanes are the state words of the source's function, and the result is its digest -/

section
variable (key : List Byte) (l : Quad U64) (seed : U64)

theorem hash32_lanesAfter (b : Nat) :
    (hash32Pipeline.lanesAfter key l seed b).q0.setWidth 32 = hash32Blocks key (init32 seed) b := by
  induction b with
  | zero => exact setLow32_setWidth _ _
  | succ b ih =>
    rw [hash32Blocks, ← ih]
    exact setLow32_setWidth _ _

theorem hash32_result : hash32Pipeline.result key l seed = (hash32u key seed).setWidth 128 := by
  rw [hash32u, ← hash32_lanesAfter key l]
  exact congrArg (fun h => (fin32 h _).setWidth 128) (setLow32_setWidth _ _)

theorem hash128X64_lanesAfter (b : Nat) :
    ((hash128X64Pipeline.lanesAfter key l seed b).q0, (hash128X64Pipeline.lanesAfter key l seed b).q1) =
      hash128X64Blocks key (seed, seed) b := by
  induction b with
  | zero => rfl
  | succ b ih =>
    rw [hash128X64Blocks, ← ih]
    rfl

theorem hash128X64_result : hash128X64Pipeline.result key l seed = hash128X64 key seed := by
  rw [hash128X64, ← hash128X64_lanesAfter key l]
  rfl

theorem map_setLow32s (v : Quad U32) : (setLow32s l v).map (fun c => c.setWidth 32) = v := by
  simp only [Quad.map, setLow32s, setLow32_setWidth]

theorem hash128X86_lanesAfter (b : Nat) :
    (hash128X86Pipeline.lanesAfter key l seed b).map (fun c => c.setWidth 32) =
      hash128X86Blocks key (Quad.all (seed.setWidth 32)) b := by
  induction b with
  | zero => exact map_setLow32s _ _
  | succ b ih =>
    rw [hash128X86Blocks, ← ih]
    exact map_setLow32s _ _

theorem hash128X86_result : hash128X86Pipeline.result key l seed = hash128X86 key seed := by
  rw [hash128X86, ← hash128X86_lanesAfter key l]
  exact congrArg (fin86 · _) (map_setLow32s _ _)

end

/-- Settles O35: the engine runs HASH32 as a pipeline whose lane 0 is `hash32u`'s state word. -/
theorem hash32Result : Obligations.Hash32Result := hash32_runsAs.hashResult hash32_result

/-- Settles O36: the engine runs HASH128_X64 as a pipeline whose lanes 0 and 1 are `hash128X64`'s state words. -/
theorem hash128X64Result : Obligations.Hash128X64Result := hash128X64_runsAs.hashResult hash128X64_result

/-- Settles O37: the engine runs HASH128_X86 as a pipeline whose lanes' low halves are `hash128X86`'s state words. -/
theorem hash128X86Result : Obligations.Hash128X86Result := hash128X86_runsAs.hashResult hash128X86_result

end Sys2Proof.Machine
end

section
/-! PROOFS. The full hashes' engine steps with the words read off the key and the cells written as the spec writes them
(41_hash32.md R160, 42_hash128_x64.md R192, 43_hash128_x86.md R222, 10_state.md R32, R36), and the law that the bytes
past the key do not count (41_hash32.md R161). -/

namespace Sys2Proof.Machine

open Claims

/-! ## The engine's steps, whatever the pipeline -/

section
variable {i : Instr} {p : Pipeline} (hr : RunsAs i p) {s : State} {key : List Byte}
include hr

theorem RunsAs.bs_pos : 0 < p.bs := by
  rw [hr.bs_eq, blockBytes]
  split_ifs <;> decide

theorem RunsAs.exec_init (h : InPhase s i .init key) :
    exec i s = .next { s with eng := { s.eng with
      phase := if key.length < p.bs then .tail else .block
      lanes := p.init s.eng.lanes s.seed.value
      blk := 0 } } := by
  obtain ⟨hp, hc, hk⟩ := h
  have hpos : 0 < s.nBlocks p.bs ↔ ¬ key.length < p.bs := by
    rw [hk.nBlocks, Nat.div_pos_iff]
    have hbs := hr.bs_pos
    omega
  rw [hr.init hp hc, State.stepInit]
  simp only [hpos, ite_not]

theorem RunsAs.exec_block (h : InPhase s i .block key) (hb : s.eng.blk < key.length / p.bs) :
    exec i s = .next { s with eng := { s.eng with
      phase := if s.eng.blk + 1 = key.length / p.bs then .tail else .block
      lanes := p.block s.eng.lanes key s.eng.blk
      blk := s.eng.blk + 1 } } := by
  rw [hr.block h hb, State.stepBlock, h.2.2.nBlocks]

theorem RunsAs.exec_tail (h : InPhase s i .tail key) :
    exec i s = .next { s with eng := { s.eng with
      phase := .final
      lanes := p.tail s.eng.lanes key } } := hr.tail h

theorem RunsAs.exec_final (h : InPhase s i .final key) :
    exec i s = .next (completed s (p.final s.eng.lanes s.keyLen.value)) := hr.final h.1 h.2.1

end

/-! ## The pipelines' functions in the spec's words -/

theorem setLow32_eq_lowWritten (c : U64) (v : U32) : setLow32 c v = lowWritten c v := setLow32_eq c v

theorem setWidth_eq_low (c : U64) : c.setWidth 32 = c.extractLsb' 0 32 :=
  BitVec.setWidth_eq_extractLsb' (by decide)

/-! ### A tail's function masks its words itself, so that a word masked already gives the same -/

theorem tail32_keepBytes (h k : U32) (t : Nat) : tail32 h (keepBytes k t) t = tail32 h k t := by
  simp only [tail32, keepBytes_keepBytes]

theorem tail64_keepBytes (h1 h2 k1 k2 : U64) (t : Nat) :
    tail64 h1 h2 (keepBytes k1 (min t 8)) (keepBytes k2 (t - 8)) t = tail64 h1 h2 k1 k2 t := by
  simp only [tail64, keepBytes_keepBytes]

theorem tailLane86_keepBytes (j : Fin 4) (h k : U32) (t : Nat) :
    tailLane86 j h (keepBytes k (tailBytes86 t j)) t = tailLane86 j h k t := by
  simp only [tailLane86, tailBytes86, keepBytes_keepBytes]

section
variable (l : Quad U64) (seed : U64) (key : List Byte) (b : Nat)

theorem hash32Pipeline_init :
    hash32Pipeline.init l seed = { l with q0 := lowWritten l.q0 (seed.extractLsb' 0 32) } := by
  rw [← setLow32_eq_lowWritten, ← setWidth_eq_low]
  rfl

theorem hash32Pipeline_block :
    hash32Pipeline.block l key b =
      { l with q0 := lowWritten l.q0 (mix32 (l.q0.extractLsb' 0 32) (keyWord32 key (4 * b))) } := by
  rw [← setLow32_eq_lowWritten, ← setWidth_eq_low, ← keepBytes_four (keyWord32 _ _), ← setWidth_leWord_keySlice]
  rfl

theorem hash32Pipeline_tail :
    hash32Pipeline.tail l key =
      { l with
        q0 := lowWritten l.q0
          (tail32 (l.q0.extractLsb' 0 32) (keyWord32 key (4 * (key.length / 4))) (key.length % 4)) } := by
  rw [← setLow32_eq_lowWritten, ← setWidth_eq_low, ← tail32_keepBytes, ← setWidth_leWord_keySlice]
  rfl

theorem setLanes2_eq (h : U64 × U64) : setLanes2 l h = ⟨h.1, h.2, l.q2, l.q3⟩ := rfl

theorem hash128X64Pipeline_block :
    hash128X64Pipeline.block l key b =
      setLanes2 l (mix64 l.q0 l.q1 (keyWord64 key (16 * b)) (keyWord64 key (16 * b + 8))) := by
  rw [← keepBytes_eight (keyWord64 key (16 * b)), ← keepBytes_eight (keyWord64 key (16 * b + 8)), ← leWord_keySlice,
    ← leWord_keySlice]
  rfl

theorem hash128X64Pipeline_tail :
    hash128X64Pipeline.tail l key =
      setLanes2 l (tail64 l.q0 l.q1 (keyWord64 key (16 * (key.length / 16)))
        (keyWord64 key (16 * (key.length / 16) + 8)) (key.length % 16)) := by
  rw [← tail64_keepBytes, ← leWord_keySlice, ← leWord_keySlice]
  rfl

/-- The four words of 16 key bytes. -/
def keyWords32 (off : Nat) : Quad U32 :=
  ⟨keyWord32 key off, keyWord32 key (off + 4), keyWord32 key (off + 8), keyWord32 key (off + 12)⟩

/-- The four cells with their low halves written (R32). -/
def lowsWritten (v : Quad U32) : Quad U64 :=
  ⟨lowWritten l.q0 v.q0, lowWritten l.q1 v.q1, lowWritten l.q2 v.q2, lowWritten l.q3 v.q3⟩

theorem setLow32s_eq_lowsWritten (v : Quad U32) : setLow32s l v = lowsWritten l v := by
  simp only [setLow32s, lowsWritten, setLow32_eq_lowWritten]

theorem keyWords86_four (off : Nat) : keyWords86 key off (fun _ => 4) = keyWords32 key off := by
  simp only [keyWords86, keyWords32, setWidth_leWord_keySlice, keepBytes_four]

theorem tail86_keyWords86 (h : Quad U32) (off t : Nat) :
    tail86 h (keyWords86 key off (tailBytes86 t)) t = tail86 h (keyWords32 key off) t := by
  simp only [tail86, keyWords86, keyWords32, setWidth_leWord_keySlice, tailLane86_keepBytes]

theorem hash128X86Pipeline_init :
    hash128X86Pipeline.init l seed = lowsWritten l (Quad.all (seed.extractLsb' 0 32)) := by
  rw [← setLow32s_eq_lowsWritten, ← setWidth_eq_low]
  rfl

theorem hash128X86Pipeline_block :
    hash128X86Pipeline.block l key b =
      lowsWritten l (mix86 (l.map fun c => c.extractLsb' 0 32) (keyWords32 key (16 * b))) := by
  rw [← setLow32s_eq_lowsWritten, ← keyWords86_four]
  simp only [← setWidth_eq_low]
  rfl

theorem hash128X86Pipeline_tail :
    hash128X86Pipeline.tail l key =
      lowsWritten l (tail86 (l.map fun c => c.extractLsb' 0 32) (keyWords32 key (16 * (key.length / 16)))
        (key.length % 16)) := by
  rw [← setLow32s_eq_lowsWritten, ← tail86_keyWords86]
  simp only [← setWidth_eq_low]
  rfl

end

/-! ## The statements -/

/-- Settles O32: the pipeline's steps, with its functions in the spec's words. -/
theorem hash32EngineSteps : Obligations.Hash32EngineSteps := by
  refine ⟨encodedAs_encode Laws.CanonicalWord.hash32 (by decide) (by decide), acceptsHash rfl, fun s key => ?_⟩
  have hr := hash32_runsAs
  refine ⟨fun hin => ?_, fun hin hb => ?_, fun hin => ?_, fun hin => ?_⟩
  · rw [hr.exec_init hin, hash32Pipeline_init]
    rfl
  · rw [hr.exec_block hin hb, hash32Pipeline_block]
    rfl
  · rw [hr.exec_tail hin, hash32Pipeline_tail]
  · rw [hr.exec_final hin, ← setWidth_eq_low]
    rfl

/-- Settles O33: the pipeline's steps, with its functions in the spec's words. -/
theorem hash128X64EngineSteps : Obligations.Hash128X64EngineSteps := by
  refine ⟨encodedAs_encode Laws.CanonicalWord.hash128X64 (by decide) (by decide), acceptsHash rfl, fun s key => ?_⟩
  have hr := hash128X64_runsAs
  refine ⟨fun hin => ?_, fun hin hb => ?_, fun hin => ?_, fun hin => ?_⟩
  · rw [hr.exec_init hin]
    rfl
  · rw [hr.exec_block hin hb, hash128X64Pipeline_block, setLanes2_eq]
    rfl
  · rw [hr.exec_tail hin, hash128X64Pipeline_tail, setLanes2_eq]
  · rw [hr.exec_final hin]
    rfl

/-- Settles O34: the pipeline's steps, with its functions in the spec's words. -/
theorem hash128X86EngineSteps : Obligations.Hash128X86EngineSteps := by
  refine ⟨encodedAs_encode Laws.CanonicalWord.hash128X86 (by decide) (by decide), acceptsHash rfl, fun s key => ?_⟩
  have hr := hash128X86_runsAs
  refine ⟨fun hin => ?_, fun hin hb => ?_, fun hin => ?_, fun hin => ?_⟩
  · rw [hr.exec_init hin, hash128X86Pipeline_init]
    rfl
  · rw [hr.exec_block hin hb, hash128X86Pipeline_block]
    rfl
  · rw [hr.exec_tail hin, hash128X86Pipeline_tail]
    rfl
  · rw [hr.exec_final hin]
    simp only [← setWidth_eq_low]
    rfl

/-- A buffer that agrees below the key's length holds the same key. -/
theorem State.HoldsKey.of_agree {s : State} {key : List Byte} (hk : s.HoldsKey key) {m : Memory}
    (hm : ∀ a, a < key.length → m.read a = s.buf.read a) : State.HoldsKey { s with buf := m } key := by
  obtain ⟨hlen, hbuf, hread⟩ := hk
  exact ⟨hlen, hbuf, fun a ha => (hm a ha).trans (hread a ha)⟩

/-- Settles O40: the laws of the function by evaluation on the empty key and on one byte; two buffers that hold the same
key give the same digest. -/
theorem hash32Laws : Obligations.Hash32Laws := by
  refine ⟨fun seed => ?_, by decide, by decide, fun s key m ⟨hp, hc, hk⟩ hm => ?_⟩
  · rw [← setWidth_eq_low]
    exact congrArg fmix32 BitVec.xor_zero
  · obtain ⟨t, hrun, ht, -⟩ := hash32Result s key ⟨hp, hc, hk⟩
    obtain ⟨u, hrun', hu, -⟩ := hash32Result { s with buf := m } key ⟨hp, hc, hk.of_agree hm⟩
    refine ⟨t, u, hrun, hrun', ?_⟩
    rw [ht, hu]

end Sys2Proof.Machine
end

section
/-! PROOFS. A running command runs to its end: its engine steps do not fail and are counted (60_exceptions.md R244,
70_reset_and_hazards.md R280, R281), and its result depends only on what it reads (10_state.md R37, R38). -/

namespace Sys2Proof.Machine

open Claims

/-! ## The primitive and stage commands: one EXEC step -/

/-- The result of a primitive or stage command (40_primitives.md R125 to R129; 41 R157 to R159; 42 R189 to R191;
43 R219 to R221). -/
def execResult (s : State) : Instr → U128
  | .rotl32 amt => (rotl32 (s.h32 0) amt.toNat).setWidth 128
  | .rotl64 amt => (rotl64 (s.h64 0) amt.toNat).setWidth 128
  | .scramble32 => (scramble32 (s.k32 0)).setWidth 128
  | .fmix32 => (fmix32 (s.h32 0)).setWidth 128
  | .fmix64 => (fmix64 (s.h64 0)).setWidth 128
  | .mix32 => (mix32 (s.h32 0) (s.k32 0)).setWidth 128
  | .tail32 => (tail32 (s.h32 0) (s.k32 0) (s.tailSize 4)).setWidth 128
  | .fin32 => (fin32 (s.h32 0) s.keyLen.value).setWidth 128
  | .mix64 => pack2 (mix64 (s.h64 0) (s.h64 1) (s.k64 0) (s.k64 1))
  | .tail64 => pack2 (tail64 (s.h64 0) (s.h64 1) (s.k64 0) (s.k64 1) (s.tailSize 16))
  | .fin64 => fin64 (s.h64 0) (s.h64 1) s.keyLen.value
  | .mix86 => pack4 (mix86 s.h32s s.k32s)
  | .tail86 => pack4 (tail86 s.h32s s.k32s (s.tailSize 16))
  | .fin86 => fin86 s.h32s s.keyLen.value
  | .hash32 => 0
  | .hash128X64 => 0
  | .hash128X86 => 0

theorem exec_eq_execStep {i : Instr} (hf : i.fullHash = false) (hw : i.wf = true) (s : State) :
    exec i s = s.execStep i (execResult s i) := by
  cases i with
  | hash32 | hash128X64 | hash128X86 => cases hf
  | rotl32 amt => exact if_pos hw
  | rotl64 amt => exact if_pos hw
  | scramble32 | fmix32 | fmix64 | mix32 | tail32 | fin32 | mix64 | tail64 | fin64 | mix86 | tail86 | fin86 => rfl

/-- The EXEC step completes the command with its result (R36). -/
theorem exec_of_exec {i : Instr} (hf : i.fullHash = false) (hw : i.wf = true) {s : State} (hp : s.eng.phase = .exec)
    (hc : s.eng.cmd = i) : exec i s = .next (s.complete (execResult s i)) :=
  completesWith_of_execStep (result := fun s => execResult s i) (exec_eq_execStep hf hw) s hp hc

/-! ## The engine steps left, by phase (R281) -/

section
variable {s : State}

theorem State.stepsLeft_of_init (hp : s.eng.phase = .init) :
    s.stepsLeft = s.nBlocks (blockBytes s.eng.cmd) + 3 := by
  simp only [State.stepsLeft, hp]

theorem State.stepsLeft_of_block (hp : s.eng.phase = .block) :
    s.stepsLeft = s.nBlocks (blockBytes s.eng.cmd) - s.eng.blk + 2 := by
  simp only [State.stepsLeft, hp]

theorem State.stepsLeft_of_tail (hp : s.eng.phase = .tail) : s.stepsLeft = 2 := by
  simp only [State.stepsLeft, hp]

theorem State.stepsLeft_eq_zero_iff : s.stepsLeft = 0 ↔ s.eng.phase = .idle := by
  cases hp : s.eng.phase <;> simp [State.stepsLeft, hp]

end

/-! ## Progress -/

section
variable {s : State} (hs : s.Inv)
include hs

/-- The running command's engine step answers a next state: its registers and key bytes are there (R63, R244). -/
theorem State.Inv.exec_progress (hb : s.status.state = .busy) : ∃ t, exec s.eng.cmd s = .next t := by
  have hrun := hs.running hb
  cases hf : s.eng.cmd.fullHash with
  | false => exact ⟨_, exec_of_exec hf hrun.legal (hrun.phase.mpr hf) rfl⟩
  | true =>
    obtain ⟨p, hr⟩ := exists_runsAs hf
    obtain ⟨key, hk⟩ := State.holdsKey_of_written (hrun.key hf).1 (hrun.key hf).2
    cases hp : s.eng.phase with
    | idle => exact absurd hp (hs.phase_ne_idle hb)
    | exec => cases (hrun.phase.mp hp).symm.trans hf
    | init => exact ⟨_, hr.init hp rfl⟩
    | block =>
      have hlt := hrun.block hp
      rw [← hr.bs_eq, hk.nBlocks] at hlt
      exact ⟨_, hr.block ⟨hp, rfl, hk⟩ hlt⟩
    | tail => exact ⟨_, hr.tail ⟨hp, rfl, hk⟩⟩
    | final => exact ⟨_, hr.final hp rfl⟩

/-- An engine step of the running command brings it one step nearer to its end (R281). -/
theorem State.Inv.exec_stepsLeft {t : State} (hb : s.status.state = .busy) (h : exec s.eng.cmd s = .next t) :
    t.stepsLeft + 1 = s.stepsLeft := by
  have hrun := hs.running hb
  cases exec_next h with
  | badRotate hp | accept hp => exact absurd hp (hs.phase_ne_idle hb)
  | exec v hp | final v hp | tail l hp => simp [State.stepsLeft, hp]
  | init l hp =>
    have hinit := State.stepsLeft_of_init hp
    by_cases hn : 0 < s.nBlocks (blockBytes s.eng.cmd)
    · have hblock : (s.stepInit (blockBytes s.eng.cmd) l).stepsLeft = s.nBlocks (blockBytes s.eng.cmd) + 2 :=
        State.stepsLeft_of_block (if_pos hn)
      omega
    · have htail : (s.stepInit (blockBytes s.eng.cmd) l).stepsLeft = 2 := State.stepsLeft_of_tail (if_neg hn)
      omega
  | block l hp =>
    have hlt := hrun.block hp
    have hblock := State.stepsLeft_of_block hp
    by_cases hn : s.eng.blk + 1 = s.nBlocks (blockBytes s.eng.cmd)
    · have htail : (s.stepBlock (blockBytes s.eng.cmd) l).stepsLeft = 2 := State.stepsLeft_of_tail (if_pos hn)
      omega
    · have hnext : (s.stepBlock (blockBytes s.eng.cmd) l).stepsLeft =
          s.nBlocks (blockBytes s.eng.cmd) - (s.eng.blk + 1) + 2 := State.stepsLeft_of_block (if_neg hn)
      omega

/-- One engine step of the running command, in full (R244). -/
theorem State.Inv.exec_step (hb : s.status.state = .busy) :
    ∃ t, exec s.eng.cmd s = .next t ∧ t.Inv ∧ t.stepsLeft + 1 = s.stepsLeft := by
  obtain ⟨t, h⟩ := hs.exec_progress hb
  exact ⟨t, h, hs.exec_running hb h, hs.exec_stepsLeft hb h⟩

/-- While BUSY a step is left, and otherwise none. -/
theorem State.Inv.stepsLeft_pos_iff : 0 < s.stepsLeft ↔ s.status.state = .busy := by
  rw [Nat.pos_iff_ne_zero, Ne, State.stepsLeft_eq_zero_iff, hs.phaseIdle, not_not]

end

/-- A rejected CMD write changes CMD and STATUS only (R242). -/
theorem State.writeCmd_error {s t : State} {w : U32} (hp : s.eng.phase = .idle) (h : s.writeCmd w = .next t)
    (he : t.status.state = .error) : t = { s with cmd := w, status := t.status } := by
  cases State.writeCmd_cmdNext hp h with
  | badWord | lenRange => rfl
  | accepted => cases he

/-- Settles O48: a running command's registers and key bytes are there by the invariant, so each engine step is a next
state; it leaves STATUS or completes. -/
theorem acceptedCommandNeverFails : Obligations.AcceptedCommandNeverFails := by
  refine ⟨fun s t w hs h => State.writeCmd_error (hs.phase_idle (State.writeCmd_next h).1) h, fun s hs hb => ?_⟩
  obtain ⟨t, h, ht, hleft⟩ := hs.exec_step hb
  refine ⟨t, h, ht, ?_, ?_, hleft⟩
  · obtain hst | hst := exec_status_running (hs.phase_ne_idle hb) h
    · simp [hst, hb]
    · simp [hst, Status.done]
  · obtain ⟨st, r, e, rfl⟩ := exec_frame h
    rfl

/-! ## The engine's run of a running command -/

/-- A running command's engine step leaves STATUS, or it is the completion step (R36). -/
theorem exec_running_next {i : Instr} {s t : State} (hp : s.eng.phase ≠ .idle) (h : exec i s = .next t) :
    t.status = s.status ∨ ∃ v, t = s.complete v := by
  cases exec_next h with
  | badRotate hq | accept hq => exact absurd hq hp
  | exec v | final v => exact .inr ⟨v, rfl⟩
  | init | block | tail => exact .inl rfl

/-- `s` with its command completed: RES, STATUS and the engine are written, and the engine is idle (R36). -/
def State.Completes (s t : State) : Prop :=
  ∃ v e, t = { s with res := ⟨v, true⟩, status := ⟨.done, .noError⟩, eng := e } ∧ e.phase = .idle

section
variable {s : State} (hs : s.Inv)
include hs

/-- Before its last step the command is BUSY. -/
theorem State.Inv.engineRun_busy {k : Nat} (hk : k < s.stepsLeft) :
    ∃ t, engineRun k s = .next t ∧ t.status.state = .busy := by
  have hb := hs.stepsLeft_pos_iff.mp (by omega)
  induction k generalizing s with
  | zero => exact ⟨s, rfl, hb⟩
  | succ k ih =>
    obtain ⟨t, h, ht, hleft⟩ := hs.exec_step hb
    obtain ⟨u, hu, hbu⟩ := ih ht (by omega) (ht.stepsLeft_pos_iff.mp (by omega))
    exact ⟨u, by rw [engineRun, h]; exact hu, hbu⟩

/-- After its last step the command is complete. -/
theorem State.Inv.engineRun_completes (hb : s.status.state = .busy) :
    ∃ t, engineRun s.stepsLeft s = .next t ∧ s.Completes t := by
  induction hn : s.stepsLeft generalizing s with
  | zero => exact absurd (hs.stepsLeft_pos_iff.mpr hb) (by omega)
  | succ n ih =>
    obtain ⟨t, h, ht, hleft⟩ := hs.exec_step hb
    simp only [engineRun, h]
    obtain hst | ⟨v, rfl⟩ := exec_running_next (hs.phase_ne_idle hb) h
    · obtain ⟨u, hu, v, e, rfl, hp⟩ := ih ht (hst ▸ hb) (by omega)
      obtain ⟨st, r, e', rfl⟩ := exec_frame h
      exact ⟨_, hu, v, e, rfl, hp⟩
    · have hzero : (s.complete v).stepsLeft = 0 := rfl
      obtain rfl : n = 0 := by omega
      exact ⟨_, rfl, v, _, rfl, rfl⟩

end

/-! ## Counting from acceptance -/

/-- A command that an idle engine has accepted, for it is BUSY now: what acceptance has checked (R35). -/
theorem exec_accepted {i : Instr} {s u : State} (hp : s.eng.phase = .idle) (h : exec i s = .next u)
    (hb : u.status.state = .busy) :
    i.wf = true ∧ ((i.fullHash = false ∧ u = s.start i .exec) ∨
      (i.fullHash = true ∧ s.keyLength ≤ s.cfg.bufBytes.toNat ∧ s.keyWritten s.keyLength = true ∧
        u = s.start i .init)) := by
  rw [exec_idle hp] at h
  split_ifs at h with hw
  · obtain ⟨-, hexec | ⟨-, -, rfl⟩ | hinit⟩ := State.accept_next h
    · exact ⟨hw, .inl hexec⟩
    · cases hb
    · exact ⟨hw, .inr hinit⟩
  · cases h
    cases hb

/-- The engine steps of a command on a key of `n` bytes (R281). -/
theorem stepsLeft_of_accepted {i : Instr} {s u : State} (hp : s.eng.phase = .idle) (h : exec i s = .next u)
    (hb : u.status.state = .busy) :
    u.stepsLeft = if i = .hash32 then s.keyLength / 4 + 3
      else if i = .hash128X64 ∨ i = .hash128X86 then s.keyLength / 16 + 3 else 1 := by
  obtain ⟨-, ⟨hf, rfl⟩ | ⟨hf, -, -, rfl⟩⟩ := exec_accepted hp h hb
  · rw [if_neg (by rintro rfl; cases hf), if_neg (by rintro (rfl | rfl) <;> cases hf)]
    rfl
  · cases i with
    | hash32 | hash128X64 | hash128X86 => rfl
    | _ => cases hf

/-! ### A tail of no bytes leaves the lanes (R63) -/

section
variable {s : State}

theorem hash32Tail_of_empty (h : s.tailSize 4 = 0) : hash32Tail s = .ok s.eng.lanes := by
  simp only [hash32Tail, h, State.memRead, tail32_zero, State.lane32, Quad.get, setLow32_self]
  rfl

theorem hash128X64Tail_of_empty (h : s.tailSize 16 = 0) : hash128X64Tail s = .ok s.eng.lanes := by
  simp only [hash128X64Tail, h]
  rfl

theorem setLow32s_self (l : Quad U64) : setLow32s l (l.map fun c => c.setWidth 32) = l := by
  simp only [setLow32s, Quad.map, setLow32_self]

theorem hash128X86Tail_of_empty (h : s.tailSize 16 = 0) : hash128X86Tail s = .ok s.eng.lanes := by
  simp only [hash128X86Tail, h]
  exact congrArg Except.ok (setLow32s_self s.eng.lanes)

theorem State.hashStep_tail_lanes {t : State} {i : Instr} {bs : Nat} {init l : Quad U64}
    {block tail : Except Fault (Quad U64)} {final : U128} (hp : s.eng.phase = .tail) (hl : tail = .ok l)
    (h : s.hashStep i bs init block tail final = .next t) : t.eng.lanes = l := by
  obtain ⟨hq, -⟩ | ⟨-, ⟨hq, -⟩ | ⟨hq, -⟩ | ⟨-, l', hl', rfl⟩ | ⟨hq, -⟩⟩ := State.hashStep_next h
  case inr.inr.inr.inl =>
    cases hl.symm.trans hl'
    rfl
  all_goals cases hp.symm.trans hq

theorem exec_tail_of_empty {t : State} {i : Instr} (hp : s.eng.phase = .tail)
    (ht : s.keyLen.value.toNat % blockBytes i = 0) (h : exec i s = .next t) : t.eng.lanes = s.eng.lanes := by
  have hf : i.fullHash = true := by
    cases exec_next h with
    | tail _ _ _ hf => exact hf
    | badRotate hq | accept hq | exec _ hq | init _ hq | block _ hq | final _ hq => cases hp.symm.trans hq
  cases i with
  | hash32 => exact State.hashStep_tail_lanes hp (hash32Tail_of_empty ht) h
  | hash128X64 => exact State.hashStep_tail_lanes hp (hash128X64Tail_of_empty ht) h
  | hash128X86 => exact State.hashStep_tail_lanes hp (hash128X86Tail_of_empty ht) h
  | _ => cases hf

end

/-- Settles O49: the engine steps left after acceptance are the count, and each step takes one off. -/
theorem engineStepCounts : Obligations.EngineStepCounts := by
  refine ⟨fun s t hp ht h => exec_tail_of_empty hp ht h, fun i s u w hs hd h hb => ?_⟩
  intro n count
  have hu := hs.writeCmd h
  have hidle := hs.phase_idle (State.writeCmd_next h).1
  rw [State.writeCmd_of_decode_ok (State.not_busy_iff.mp (State.writeCmd_next h).1) hd] at h
  have hcount : u.stepsLeft = count := stepsLeft_of_accepted (s := { s with cmd := w }) hidle h hb
  rw [← hcount]
  obtain ⟨t, hrun, v, e, rfl, hp⟩ := hu.engineRun_completes hb
  exact ⟨fun k hk => hu.engineRun_busy hk, _, hrun, rfl, rfl, hp⟩

/-! ## The machine's own steps -/

theorem run_succ {k : Nat} {s t : State} (h : step s = .next t) :
    Host.Core.run core (k + 1) s = Host.Core.run core k t := by
  simp only [Host.Core.run, core, h]

/-- With nothing scheduled the turn of a BUSY block is the engine's (log entry 4). -/
theorem step_of_empty_schedule {s t : State} (hf : s.faulted = none) (hb : s.status.state = .busy)
    (hsch : s.env.schedule = []) (h : exec s.eng.cmd s = .next t) : step s = .next t := by
  have hturn : s.turn = .engine := by simp only [State.turn, hsch, State.busy_iff.mpr hb, if_true]
  have hpop : s.popTurn = s := by
    obtain ⟨cfg, cmd, status, keyLen, seed, oph, opk, res, buf, eng, faulted, prog, schedule, reads⟩ := s
    cases hsch
    rfl
  rw [step_engine hf hturn hb, hpop, h]
  rfl

/-- With nothing scheduled the machine's run is the engine's, until the command is complete. -/
theorem run_eq_engineRun {s : State} (hs : s.Inv) (hf : s.faulted = none) (hsch : s.env.schedule = []) {k : Nat}
    (hk : k ≤ s.stepsLeft) : Host.Core.run core k s = engineRun k s := by
  induction k generalizing s with
  | zero => rfl
  | succ k ih =>
    have hb := hs.stepsLeft_pos_iff.mp (by omega)
    obtain ⟨t, h, ht, hleft⟩ := hs.exec_step hb
    rw [run_succ (step_of_empty_schedule hf hb hsch h), engineRun, h]
    obtain ⟨st, r, e, rfl⟩ := exec_frame h
    exact ih ht hf hsch (by omega)

theorem run_completes {s : State} (hs : s.Inv) (hf : s.faulted = none) (hb : s.status.state = .busy)
    (hsch : s.env.schedule = []) : ∃ t, Host.Core.run core s.stepsLeft s = .next t ∧ s.Completes t := by
  rw [run_eq_engineRun hs hf hsch le_rfl]
  exact hs.engineRun_completes hb

/-- A host or engine turn of a BUSY block that does not fault changes nothing but the environment, or is the engine's
step of the running command. -/
theorem step_of_busy {s t : State} (hb : s.status.state = .busy) (hturn : s.turn ≠ .platform) (h : step s = .next t)
    (hf : t.faulted = none) : (∃ e, t = { s with env := e }) ∨ exec s.eng.cmd s.popTurn = .next t := by
  have hbusy := State.busy_iff.mpr hb
  cases step_next h with
  | reset ht => exact absurd ht hturn
  | fault => cases hf
  | engine _ _ _ h => exact .inr h
  | rest _ _ hb' => cases hbusy.symm.trans hb'
  | noAction => exact .inl ⟨_, rfl⟩
  | host _ _ _ h =>
    obtain ⟨e, rfl⟩ := h.of_busy hbusy
    exact .inl ⟨e, rfl⟩

theorem FaultFreeFor.faulted {k : Nat} {s : State} (h : FaultFreeFor k s) : s.faulted = none := by
  cases k with
  | zero => exact h
  | succ k => exact h.1

/-- After a finite schedule of host and engine turns that does not fault, the command is complete, up to the
environment; each turn takes at most one engine step off, and none but the engine's takes one off. -/
theorem run_completes_after {schedule : List Agent} {s : State} (hs : s.Inv) (hb : s.status.state = .busy)
    (hsch : s.env.schedule = schedule) (hplatform : Agent.platform ∉ schedule)
    (hfree : FaultFreeFor schedule.length s) :
    ∃ k t e, s.stepsLeft ≤ k ∧ k ≤ schedule.length + s.stepsLeft ∧ Host.Core.run core k s = .next t ∧
      State.Completes { s with env := e } t := by
  induction schedule generalizing s with
  | nil =>
    obtain ⟨t, hrun, hdone⟩ := run_completes hs hfree hb hsch
    exact ⟨_, t, s.env, le_rfl, by simp, hrun, hdone⟩
  | cons a rest ih =>
    obtain ⟨-, t, h, hfree⟩ := hfree
    have ht := hs.step h
    have hrest : t.env.schedule = rest := by rw [step_schedule h, hsch, List.tail_cons]
    have hturn : s.turn ≠ .platform := by
      rw [State.turn_of_schedule hsch]
      exact fun ha => hplatform (ha ▸ List.mem_cons_self)
    have hplatform : Agent.platform ∉ rest := fun ha => hplatform (List.mem_cons_of_mem a ha)
    rw [List.length_cons]
    obtain ⟨e, rfl⟩ | hstep := step_of_busy hb hturn h hfree.faulted
    · obtain ⟨k, u, e', hlo, hhi, hrun, hdone⟩ := ih ht hb hrest hplatform hfree
      have hleft : State.stepsLeft { s with env := e } = s.stepsLeft := rfl
      exact ⟨k + 1, u, e', by omega, by omega, (run_succ h).trans hrun, hdone⟩
    · have hleft : t.stepsLeft + 1 = s.stepsLeft := (hs.frame s.faulted s.popTurn.env).exec_stepsLeft hb hstep
      obtain hst | ⟨v, rfl⟩ := exec_running_next (s := s.popTurn) (hs.phase_ne_idle hb) hstep
      · obtain ⟨k, u, e', hlo, hhi, hrun, v, eng, hu, hp⟩ := ih ht (hst ▸ hb) hrest hplatform hfree
        obtain ⟨st, r, e, rfl⟩ := exec_frame hstep
        exact ⟨k + 1, u, e', by omega, by omega, (run_succ h).trans hrun, v, eng, hu, hp⟩
      · have hzero : (s.popTurn.complete v).stepsLeft = 0 := rfl
        exact ⟨1, _, s.popTurn.env, by omega, by omega, run_succ h, v, _, rfl, rfl⟩

/-- Settles O50: with nothing scheduled the run is the engine's; before that, by induction on the schedule, each turn is
an engine step of the running command or leaves the block. -/
theorem engineCompletesUnderFairSchedule : Obligations.EngineCompletesUnderFairSchedule := by
  refine ⟨fun s hs hf hb hsch => ?_, fun s hs hb hplatform hfree => ?_⟩
  · obtain ⟨t, hrun, v, e, rfl, -⟩ := run_completes hs hf hb hsch
    exact ⟨_, hrun, rfl, hf, rfl⟩
  · obtain ⟨k, t, e, hlo, hhi, hrun, v, eng, rfl, -⟩ := run_completes_after hs hb rfl hplatform hfree
    exact ⟨k, _, hlo, hhi, hrun, rfl, rfl, hfree.faulted, rfl, rfl⟩

/-! ## The result depends only on what the command reads -/

section
variable (s : State)

theorem State.h32_eq_value (j : Fin 4) : s.h32 j = (s.value (.oph j)).setWidth 32 := rfl
theorem State.h64_eq_value (j : Fin 4) : s.h64 j = s.value (.oph j) := rfl
theorem State.k32_eq_value (j : Fin 4) : s.k32 j = (s.value (.opk j)).setWidth 32 := rfl
theorem State.k64_eq_value (j : Fin 4) : s.k64 j = s.value (.opk j) := rfl
theorem State.h32s_eq_h32 : s.h32s = ⟨s.h32 0, s.h32 1, s.h32 2, s.h32 3⟩ := rfl
theorem State.k32s_eq_k32 : s.k32s = ⟨s.k32 0, s.k32 1, s.k32 2, s.k32 3⟩ := rfl

theorem State.keyLen_eq_value : s.keyLen.value = (s.value .keyLen).setWidth 32 := by
  simp [State.value]

theorem State.tailSize_eq_keyLen (bs : Nat) : s.tailSize bs = s.keyLen.value.toNat % bs := rfl

end

theorem execResult_congr {i : Instr} {s t : State} (h : ∀ r ∈ i.reads, s.value r = t.value r) :
    execResult s i = execResult t i := by
  cases i with
  | hash32 | hash128X64 | hash128X86 => rfl
  | rotl32 | rotl64 | scramble32 | fmix32 | fmix64 | mix32 | tail32 | fin32 | mix64 | tail64 | fin64 | mix86 | tail86
  | fin86 =>
    simp only [Instr.reads, List.forall_mem_cons, List.not_mem_nil, false_imp_iff, implies_true, and_true] at h
    simp only [execResult, State.h32s_eq_h32, State.k32s_eq_k32, State.tailSize_eq_keyLen, State.keyLen_eq_value,
      State.h32_eq_value, State.h64_eq_value, State.k32_eq_value, State.k64_eq_value, h]

/-- Acceptance leaves the operands. -/
theorem execResult_start (s : State) (i j : Instr) (p : Phase) : execResult (s.start j p) i = execResult s i := by
  cases i <;> rfl

/-- Every full hash has a digest, which its runs compute. -/
theorem exists_hashResult {i : Instr} (hf : i.fullHash = true) : ∃ digest, HashResult i (blockBytes i) digest := by
  cases i with
  | hash32 => exact ⟨_, hash32Result⟩
  | hash128X64 => exact ⟨_, hash128X64Result⟩
  | hash128X86 => exact ⟨_, hash128X86Result⟩
  | _ => cases hf

/-- The run of an accepted full hash computes its digest. -/
theorem hashResult_of_start {i : Instr} {digest : List Byte → U64 → U128}
    (hd : HashResult i (blockBytes i) digest) {s : State} {key : List Byte} (hk : s.HoldsKey key) :
    ∃ t, engineRun (s.start i .init).stepsLeft (s.start i .init) = .next t ∧ t.status.state = .done ∧
      t.res = ⟨digest key s.seed.value, true⟩ := by
  obtain ⟨t, hrun, ht, -⟩ := hd (s.start i .init) key ⟨rfl, rfl, hk.congr rfl rfl rfl⟩
  have hleft : (s.start i .init).stepsLeft = key.length / blockBytes i + 3 :=
    congrArg (· + 3) (hk.nBlocks (blockBytes i))
  rw [hleft]
  exact ⟨t, hrun, by rw [ht], by rw [ht]; rfl⟩

/-- The one step of an accepted command that is no full hash computes its result. -/
theorem engineRun_of_start {i : Instr} (hw : i.wf = true) (hf : i.fullHash = false) (s : State) :
    engineRun (s.start i .exec).stepsLeft (s.start i .exec) =
      .next ((s.start i .exec).complete (execResult s i)) := by
  have h := exec_of_exec hf hw (s := s.start i .exec) rfl rfl
  rw [execResult_start] at h
  exact engineRun_one h

/-- The key that a state holds, another state that agrees on a full hash's inputs holds too. -/
theorem State.HoldsKey.of_agreeOnInputs {i : Instr} {s t : State} {key : List Byte} (hk : s.HoldsKey key)
    (hf : i.fullHash = true) (h : AgreeOnInputs i s t) (hl : t.keyLength ≤ t.cfg.bufBytes.toNat) :
    t.HoldsKey key ∧ s.seed.value = t.seed.value := by
  obtain ⟨hregs, hbytes⟩ := h
  obtain ⟨hlen, -, hread⟩ := hk
  rw [(fullHash_wf_reads hf).2] at hregs
  have hkeyLen : s.keyLength = t.keyLength := by
    rw [State.keyLength, State.keyLength, s.keyLen_eq_value, t.keyLen_eq_value, hregs .keyLen (by simp)]
  refine ⟨⟨hlen.trans hkeyLen, by omega, fun a ha => ?_⟩, hregs .seed (by simp)⟩
  rw [← hbytes hf a (hlen ▸ ha), hread a ha]

/-- Settles O51: a primitive or stage command's result is a function of its registers' values, a full hash's is the
digest of the key and the seed. -/
theorem resultDependsOnlyOnInputs : Obligations.ResultDependsOnlyOnInputs := by
  intro i s s' u u' hagree hp hp' h hb h' hb'
  obtain ⟨hw, hacc⟩ := exec_accepted hp h hb
  obtain ⟨-, hacc'⟩ := exec_accepted hp' h' hb'
  obtain ⟨hf, rfl⟩ | ⟨hf, hl, hkey, rfl⟩ := hacc
  · obtain ⟨-, rfl⟩ | ⟨hf', -⟩ := hacc'
    · refine ⟨_, _, engineRun_of_start hw hf s, engineRun_of_start hw hf s', rfl, rfl, ?_⟩
      rw [State.complete_res, State.complete_res, execResult_congr hagree.1]
    · cases hf.symm.trans hf'
  · obtain ⟨hf', -⟩ | ⟨-, hl', -, rfl⟩ := hacc'
    · cases hf.symm.trans hf'
    · obtain ⟨digest, hd⟩ := exists_hashResult hf
      obtain ⟨key, hk⟩ := State.holdsKey_of_written hl hkey
      obtain ⟨hk', hseed⟩ := hk.of_agreeOnInputs hf hagree hl'
      obtain ⟨t, hrun, hdone, hres⟩ := hashResult_of_start hd hk
      obtain ⟨t', hrun', hdone', hres'⟩ := hashResult_of_start hd hk'
      exact ⟨t, t', hrun, hrun', hdone, hdone', by rw [hres, hres', hseed]⟩

end Sys2Proof.Machine
end

section
/-! PROOFS. A host write of an input register: when it completes, what reads back, and what no other access sees of it
(10_state.md R25 to R27, R29, R41). -/

namespace Sys2Proof.Machine

/-! ## What a register write leaves in the written register and in the others -/

/-- KEY_LEN, SEED, OPH0..3 and OPK0..3: the writable registers but CMD. -/
def Reg.isInput (r : Reg) : Prop := r.writable ∧ r ≠ .cmd

theorem Reg.exists_input_of_number {n : Nat} (hlo : 2 ≤ n) (hhi : n ≤ 11) :
    ∃ r : Reg, Reg.ofNumber n = some r ∧ r.isInput := by
  obtain ⟨r, hr, hw⟩ := Reg.exists_writable_of_number (.inr ⟨hlo, hhi⟩)
  refine ⟨r, hr, hw, ?_⟩
  rintro rfl
  have hnum : 0 = n := Reg.ofNumber_eq_some_iff.mp hr
  omega

theorem State.hostWrite_input {n : Nat} {r : Reg} (s : State) (hr : Reg.ofNumber n = some r) (hin : r.isInput)
    (v : U64) : s.hostWrite n v = s.writeInput r v := by
  obtain ⟨⟨hstatus, hlo, hhi⟩, hcmd⟩ := hin
  simp only [State.hostWrite, hr]
  cases r with
  | keyLen | seed | oph | opk => rfl
  | cmd => exact absurd rfl hcmd
  | status => exact absurd rfl hstatus
  | resLo => exact absurd rfl hlo
  | resHi => exact absurd rfl hhi

theorem State.writeInput_next {s t : State} {r : Reg} {v : U64} (h : s.writeInput r v = .next t) :
    t = s.setReg r v := by
  unfold State.writeInput at h
  split_ifs at h
  injection h with h
  exact h.symm

section
variable (s : State) (v : U64) {r : Reg}

/-- A written input register holds the value (KEY_LEN its low 32 bits, log entry 6) and its mark. -/
theorem State.setReg_same (hin : r.isInput) :
    (s.setReg r v).written r = true ∧
      (s.setReg r v).value r = if r = .keyLen then (v.setWidth 32).setWidth 64 else v := by
  obtain ⟨⟨hstatus, hlo, hhi⟩, hcmd⟩ := hin
  cases r with
  | keyLen | seed => exact ⟨rfl, rfl⟩
  | oph j | opk j => simp [State.setReg, State.written, State.value, Quad.get_set_same]
  | cmd => exact absurd rfl hcmd
  | status => exact absurd rfl hstatus
  | resLo => exact absurd rfl hlo
  | resHi => exact absurd rfl hhi

/-- A register write leaves the mark and the value of every other register. -/
theorem State.setReg_other {r' : Reg} (hne : r' ≠ r) :
    (s.setReg r v).written r' = s.written r' ∧ (s.setReg r v).value r' = s.value r' := by
  cases r with
  | cmd | status | resLo | resHi => exact ⟨rfl, rfl⟩
  | keyLen =>
    cases r' with
    | keyLen => exact absurd rfl hne
    | _ => exact ⟨rfl, rfl⟩
  | seed =>
    cases r' with
    | seed => exact absurd rfl hne
    | _ => exact ⟨rfl, rfl⟩
  | oph j =>
    cases r' with
    | oph k =>
      have hk : (s.oph.set j ⟨v, true⟩).get k = s.oph.get k := Quad.get_set_other _ _ _ _ fun h => hne (h ▸ rfl)
      exact ⟨congrArg Marked.written hk, congrArg Marked.value hk⟩
    | _ => exact ⟨rfl, rfl⟩
  | opk j =>
    cases r' with
    | opk k =>
      have hk : (s.opk.set j ⟨v, true⟩).get k = s.opk.get k := Quad.get_set_other _ _ _ _ fun h => hne (h ▸ rfl)
      exact ⟨congrArg Marked.written hk, congrArg Marked.value hk⟩
    | _ => exact ⟨rfl, rfl⟩

/-- A host read of any other number answers as before. -/
theorem State.hostRead_setReg_other {n m : Nat} (hr : Reg.ofNumber n = some r) (hne : m ≠ n) :
    (s.setReg r v).hostRead m = s.hostRead m := by
  cases hm : Reg.ofNumber m with
  | none => rw [State.hostRead_unmapped_iff.mpr hm, State.hostRead_unmapped_iff.mpr hm]
  | some r' =>
    have hr' : r' ≠ r := by
      rintro rfl
      exact hne ((Reg.ofNumber_eq_some_iff.mp hm).symm.trans (Reg.ofNumber_eq_some_iff.mp hr))
    obtain ⟨hw, hv⟩ := s.setReg_other v hr'
    rw [State.hostRead_of_number _ hm, State.hostRead_of_number _ hm, hw, hv, State.busy, State.busy,
      State.setReg_status]

end

/-- Settles O14: the write is refused only while BUSY, and what it leaves is `setReg`. -/
theorem registerWriteThenRead : Obligations.RegisterWriteThenRead := by
  refine ⟨fun s n v hlo hhi hb => ?_, fun s t n v hlo hhi h => ?_⟩
  · obtain ⟨r, hr, hin⟩ := Reg.exists_input_of_number hlo hhi
    exact ⟨s.setReg r v, (s.hostWrite_input hr hin v).trans (if_neg (mt State.busy_iff.mp hb))⟩
  · obtain ⟨r, hr, hin⟩ := Reg.exists_input_of_number hlo hhi
    rw [s.hostWrite_input hr hin] at h
    obtain rfl := State.writeInput_next h
    obtain ⟨hw, hv⟩ := s.setReg_same v hin
    refine ⟨?_, fun m hm => s.hostRead_setReg_other v hr hm, fun off => State.readByte_congr (s.setReg_cfg r v) ?_,
      s.setReg_eng r v, s.setReg_env r v, s.setReg_cfg r v, s.setReg_faulted r v⟩
    · obtain ⟨⟨-, hresLo, hresHi⟩, -⟩ := hin
      have hn : n = 2 ↔ r = .keyLen := by
        constructor
        · rintro rfl
          exact (Option.some_inj.mp hr).symm
        · rintro rfl
          exact (Reg.ofNumber_eq_some_iff.mp hr).symm
      simp only [State.hostRead_of_ne_result _ hr hresLo hresHi, hw, if_true, hv, hn]
    · rw [s.setReg_buf r v]

end Sys2Proof.Machine
end

section
/-! PROOFS. The primitives (40_primitives.md section 1): the rotates move bits and compose, each step of the scramble
and of the finalizers is a bijection (R130), and the rotate commands (R125, R126). Also the signed reading of a digest
(41_hash32.md R156). -/

namespace Sys2Proof.Machine

open Claims

/-! ## Rotation, at every width -/

theorem rotl32_eq_rotateLeft (x : U32) {r : Nat} (hr : r < 32) : rotl32 x r = x.rotateLeft r := by
  rw [rotl32, BitVec.rotateLeft_def, Nat.mod_eq_of_lt hr]

theorem rotl64_eq_rotateLeft (x : U64) {r : Nat} (hr : r < 64) : rotl64 x r = x.rotateLeft r := by
  rw [rotl64, BitVec.rotateLeft_def, Nat.mod_eq_of_lt hr]

section
variable {w : Nat} (x : BitVec w)

theorem getLsbD_rotateLeft_mod {r i : Nat} (hr : r < w) (hi : i < w) :
    (x.rotateLeft r).getLsbD ((i + r) % w) = x.getLsbD i := by
  rw [BitVec.getLsbD_rotateLeft, Nat.mod_eq_of_lt hr]
  by_cases h : i + r < w
  · simp [Nat.mod_eq_of_lt h, h]
  · have hmod : (i + r) % w = i + r - w := by
      rw [Nat.mod_eq_sub_mod (by omega), Nat.mod_eq_of_lt (by omega)]
    simp [hmod, show i + r - w < r by omega, show w - r + (i + r - w) = i by omega]

theorem rotateLeft_rotateLeft (a b : Nat) : (x.rotateLeft a).rotateLeft b = x.rotateLeft (a + b) := by
  refine BitVec.eq_of_getMsbD_eq fun i hi => ?_
  have hlt : (b + i) % w < w := Nat.mod_lt _ (by omega)
  simp [BitVec.getMsbD_rotateLeft, hi, hlt, Nat.add_assoc]

theorem rotateLeft_width : x.rotateLeft w = x := by
  rw [← BitVec.rotateLeft_mod_eq_rotateLeft, Nat.mod_self, BitVec.rotateLeft_def]
  simp [BitVec.ushiftRight_eq_zero]

theorem rotateLeft_bijective {r : Nat} (hr : r ≤ w) : Function.Bijective fun y : BitVec w => y.rotateLeft r := by
  refine Function.bijective_iff_has_inverse.mpr ⟨fun y => y.rotateLeft (w - r), fun y => ?_, fun y => ?_⟩
  · simp only [rotateLeft_rotateLeft, Nat.add_sub_cancel' hr, rotateLeft_width]
  · simp only [rotateLeft_rotateLeft, Nat.sub_add_cancel hr, rotateLeft_width]

end

theorem rotateLeft_zero_word {w : Nat} (r : Nat) : (0 : BitVec w).rotateLeft r = 0 := by
  simp [BitVec.rotateLeft_def]

theorem rotateLeft_allOnes {w : Nat} (r : Nat) : (BitVec.allOnes w).rotateLeft r = BitVec.allOnes w := by
  ext i hi
  simp [BitVec.getElem_rotateLeft]

/-- Settles O39: both rotates are the library's rotation. -/
theorem rotateMovesBits : Obligations.RotateMovesBits := by
  refine ⟨fun x r i _ hr hi => ?_, fun x r i _ hr hi => ?_⟩
  · rw [rotl32_eq_rotateLeft x (by omega), getLsbD_rotateLeft_mod x (by omega) hi]
  · rw [rotl64_eq_rotateLeft x (by omega), getLsbD_rotateLeft_mod x (by omega) hi]

/-! ## The other steps are bijections -/

/-- From the top down, the xor with a right shift determines each bit. -/
theorem getLsbD_eq_of_xor_shift_eq {w n : Nat} (hn : 1 ≤ n) {x y : BitVec w} (h : x ^^^ (x >>> n) = y ^^^ (y >>> n))
    (i : Nat) : x.getLsbD i = y.getLsbD i := by
  by_cases hi : i < w
  · have hbit := congrArg (BitVec.getLsbD · i) h
    have habove := getLsbD_eq_of_xor_shift_eq hn h (n + i)
    simpa only [BitVec.getLsbD_xor, BitVec.getLsbD_ushiftRight, habove, Bool.xor_left_inj] using hbit
  · rw [BitVec.getLsbD_of_ge _ _ (by omega), BitVec.getLsbD_of_ge _ _ (by omega)]
  termination_by w - i

theorem xor_shift_bijective {w n : Nat} (hn : 1 ≤ n) : Function.Bijective fun h : BitVec w => h ^^^ (h >>> n) :=
  Finite.injective_iff_bijective.mp fun _ _ h => BitVec.eq_of_getLsbD_eq fun i _ => getLsbD_eq_of_xor_shift_eq hn h i

theorem mul_odd_bijective {w : Nat} {c : BitVec w} (hc : c.toNat % 2 = 1) :
    Function.Bijective fun x : BitVec w => x * c :=
  Finite.injective_iff_bijective.mp fun _ _ h => (mul_left_inj_of_odd (Nat.odd_iff.mpr hc)).mp h

theorem rotl32_bijective {r : Nat} (hr : r < 32) : Function.Bijective fun x => rotl32 x r := by
  simp only [rotl32_eq_rotateLeft _ hr]
  exact rotateLeft_bijective hr.le

theorem rotl64_bijective {r : Nat} (hr : r < 64) : Function.Bijective fun x => rotl64 x r := by
  simp only [rotl64_eq_rotateLeft _ hr]
  exact rotateLeft_bijective hr.le

theorem scramble32_bijective : Function.Bijective scramble32 :=
  (mul_odd_bijective (c := 0x1b873593#32) (by decide)).comp
    ((rotl32_bijective (r := 15) (by decide)).comp (mul_odd_bijective (c := 0xcc9e2d51#32) (by decide)))

theorem fmix32_bijective : Function.Bijective fmix32 :=
  (xor_shift_bijective (n := 16) (by decide)).comp ((mul_odd_bijective (c := 0xc2b2ae35#32) (by decide)).comp
    ((xor_shift_bijective (n := 13) (by decide)).comp ((mul_odd_bijective (c := 0x85ebca6b#32) (by decide)).comp
      (xor_shift_bijective (n := 16) (by decide)))))

theorem fmix64_bijective : Function.Bijective fmix64 :=
  (xor_shift_bijective (n := 33) (by decide)).comp ((mul_odd_bijective (c := 0xc4ceb9fe1a85ec53#64) (by decide)).comp
    ((xor_shift_bijective (n := 33) (by decide)).comp ((mul_odd_bijective (c := 0xff51afd7ed558ccd#64) (by decide)).comp
      (xor_shift_bijective (n := 33) (by decide)))))

/-- Settles O38: the scramble and the finalizers are compositions of steps that are bijections, and the rotates are the
library's rotation, which composes by adding the amounts. -/
theorem primitiveLaws : Obligations.PrimitiveLaws := by
  refine ⟨by decide, ⟨scramble32_bijective, fmix32_bijective, fmix64_bijective⟩,
    fun n hn => ⟨xor_shift_bijective hn, xor_shift_bijective hn⟩,
    fun r => ⟨fun hr => rotl32_bijective (by omega), fun hr => rotl64_bijective (by omega)⟩,
    fun c => mul_odd_bijective, fun c => mul_odd_bijective, by decide, fun x a b _ ha _ hb => ?_,
    fun x a b _ ha _ hb => ?_⟩
  · rw [rotl32_eq_rotateLeft x (by omega), rotl32_eq_rotateLeft _ (by omega : b < 32), rotateLeft_rotateLeft]
    exact ⟨fun hab => (rotl32_eq_rotateLeft x (by omega)).symm, fun hab => by rw [hab, rotateLeft_width]⟩
  · rw [rotl64_eq_rotateLeft x (by omega), rotl64_eq_rotateLeft _ (by omega : b < 64), rotateLeft_rotateLeft]
    exact ⟨fun hab => (rotl64_eq_rotateLeft x (by omega)).symm, fun hab => by rw [hab, rotateLeft_width]⟩

/-! ## The rotate commands -/

theorem oph32_q0 (s : State) : (oph32 s).q0 = s.h32 0 := by
  rw [oph32_eq]
  rfl

/-- A rotate's op with a reserved bit set (R93). -/
theorem decode_reservedField_of_opField {w : U32} {op : BitVec 5} (hop : 0x01 ≤ op.toNat ∧ op.toNat ≤ 0x11)
    (ho : opField w = op) (hr : reservedBits w ≠ 0) : decode w = .error .reservedField :=
  decode_reservedBits (ho ▸ hop) hr

/-- A command with an illegal amount, on an idle engine (R92, R94). -/
theorem exec_idle_of_illFormed {i : Instr} (hw : i.wf = false) {s : State} (hp : s.eng.phase = .idle) :
    exec i s = .next (rejected s .badRotate) := by
  rw [exec_idle hp, hw]
  rfl

/-- Settles O18: ROTL32 is a primitive command when its amount is legal, and is rejected at acceptance otherwise. -/
theorem rotl32Command : Obligations.Rotl32Command := by
  refine ⟨fun amt => ⟨rfl, decode_encode (.rotl32 amt)⟩, by decide,
    fun w => decode_reservedField_of_opField (by decide), fun amt ha s hp => ?_, fun amt hlo hhi => ?_,
    fun r hlo hhi => ?_, fun x => ?_, by decide⟩
  · exact exec_idle_of_illFormed (Bool.eq_false_iff.mpr fun hw => (rotl32_wf_iff amt).mp hw ha) hp
  · have hw : (Instr.rotl32 amt).wf = true := (rotl32_wf_iff amt).mpr (by omega)
    refine ⟨acceptsWith_reads hw rfl, completesWith_of_execStep fun s => ?_⟩
    rw [exec_eq_execStep rfl hw, execResult, oph32_q0, rotl32_eq_rotateLeft _ (by omega)]
  · rw [rotl32_eq_rotateLeft _ (by omega), rotl32_eq_rotateLeft _ (by omega)]
    exact ⟨rotateLeft_zero_word r, rotateLeft_allOnes r⟩
  · rw [rotl32, BitVec.rotateRight_def, BitVec.or_comm]

/-- Settles O19: ROTL64 is a primitive command when its amount is legal, and is rejected at acceptance otherwise. -/
theorem rotl64Command : Obligations.Rotl64Command := by
  refine ⟨fun amt => ⟨rfl, decode_encode (.rotl64 amt)⟩, by decide,
    fun w => decode_reservedField_of_opField (by decide), fun amt ha s hp => ?_, fun amt hlo => ?_,
    fun r hlo hhi => ?_, by decide⟩
  · exact exec_idle_of_illFormed (Bool.eq_false_iff.mpr fun hw => (rotl64_wf_iff amt).mp hw ha) hp
  · have hw : (Instr.rotl64 amt).wf = true := (rotl64_wf_iff amt).mpr (by omega)
    refine ⟨acceptsWith_reads hw rfl, completesWith_of_execStep fun s => ?_⟩
    rw [exec_eq_execStep rfl hw, execResult, rotl64_eq_rotateLeft _ amt.isLt]
    rfl
  · rw [rotl64_eq_rotateLeft _ (by omega), rotl64_eq_rotateLeft _ (by omega)]
    exact ⟨rotateLeft_zero_word r, rotateLeft_allOnes r⟩

/-! ## The signed reading -/

/-- The host's reading is the library's two's complement. -/
theorem toSigned32_eq_toInt (h : U32) : toSigned32 h = h.toInt := by
  rw [toSigned32, BitVec.toInt_eq_msb_cond, BitVec.msb_eq_getLsbD_last]
  rfl

/-- Settles O44: the library's two's complement, split at 2^31. -/
theorem signedReading : Obligations.SignedReading := by
  intro h
  have hlt := h.isLt
  have hnot : (h ^^^ 0xFFFFFFFF).toNat = 2 ^ 32 - 1 - h.toNat := by
    rw [show (0xFFFFFFFF : U32) = BitVec.allOnes 32 from rfl, BitVec.xor_allOnes, BitVec.toNat_not]
  rw [toSigned32_eq_toInt, BitVec.toInt_eq_toNat_cond, hnot]
  split_ifs with hs <;> omega

end Sys2Proof.Machine
end

section
/-! PROOFS. The laws of the two 128-bit digests (42_hash128_x64.md R194, 43_hash128_x86.md R223): a key of one zero byte
is the empty key with the seed's bit 0 flipped, and short keys leave three equal words. -/

namespace Sys2Proof.Machine

/-! ## `fin64` and `fin86` take the key's length by xor -/

theorem fin64_eq_zero_length (h1 h2 : U64) (n : U32) :
    fin64 h1 h2 n = fin64 (h1 ^^^ n.setWidth 64) (h2 ^^^ n.setWidth 64) 0 := by
  simp only [fin64, BitVec.setWidth_zero, BitVec.ofNat_eq_ofNat, BitVec.xor_zero]

theorem fin86_eq_zero_length (h : Quad U32) (n : U32) : fin86 h n = fin86 (h.map fun x => x ^^^ n) 0 := by
  simp only [fin86, Quad.map, BitVec.ofNat_eq_ofNat, BitVec.xor_zero]

/-! ## One zero byte: its mixed word is 0 -/

theorem xor_x64K1_zero (h : U64) : h ^^^ x64K1 0 = h := by
  have hk : x64K1 0 = 0#64 := by decide
  rw [hk, BitVec.xor_zero]

theorem xor_x86K_zero (h : U32) : h ^^^ x86K 0 0 = h := by
  have hk : x86K 0 0 = 0#32 := by decide
  rw [hk, BitVec.xor_zero]

theorem hash128X64_zeroByte (seed : U64) : hash128X64 [0x00] seed = fin64 seed seed 1 :=
  congrArg (fin64 · seed 1) (xor_x64K1_zero seed)

theorem hash128X64_nil (seed : U64) : hash128X64 [] seed = fin64 seed seed 0 := rfl

theorem hash128X86_zeroByte (seed : U64) : hash128X86 [0x00] seed = fin86 (Quad.all (seed.setWidth 32)) 1 :=
  congrArg (fun h => fin86 { Quad.all (seed.setWidth 32) with q0 := h } 1) (xor_x86K_zero (seed.setWidth 32))

theorem hash128X86_nil (seed : U64) : hash128X86 [] seed = fin86 (Quad.all (seed.setWidth 32)) 0 := rfl

/-- Settles O41: for both keys no lane is mixed, and FIN takes the length by xor. -/
theorem hash128X64Laws : Obligations.Hash128X64Laws := by
  refine ⟨by decide, fun seed => ?_⟩
  rw [hash128X64_zeroByte, hash128X64_nil, fin64_eq_zero_length]
  rfl

/-! ## The x86 digest -/

theorem setWidth_setWidth_low (s : U32) : (s.setWidth 64).setWidth 32 = s := by simp

/-- Only the seed's low 32 bits start the lanes (R211). -/
theorem hash128X86_congr_seed (key : List Byte) {seed seed' : U64} (h : seed.setWidth 32 = seed'.setWidth 32) :
    hash128X86 key seed = hash128X86 key seed' := by
  simp only [hash128X86, h]

/-- A tail of at most 4 bytes reaches lane 1 only (R214). -/
theorem tail86_of_le_four (h k : Quad U32) {t : Nat} (ht : t ≤ 4) : ∃ h1, tail86 h k t = ⟨h1, h.q1, h.q2, h.q3⟩ := by
  refine ⟨tailLane86 0 h.q0 k.q0 t, ?_⟩
  simp [tail86, tailLane86, show ¬ 4 < t by omega, show ¬ 8 < t by omega, show ¬ 12 < t by omega]

/-- Where lanes 2 to 4 are equal, so are the words of the result they become. -/
theorem fin86_of_equal_lanes (h1 h : U32) (n : U32) : ∃ a b, fin86 ⟨h1, h, h, h⟩ n = pack4 ⟨a, b, b, b⟩ := ⟨_, _, rfl⟩

theorem hash128X86_of_short {key : List Byte} (hkey : key.length ≤ 4) (seed : U64) :
    ∃ a b, hash128X86 key seed = pack4 ⟨a, b, b, b⟩ := by
  have hdiv : key.length / 16 = 0 := by omega
  have hmod : key.length % 16 ≤ 4 := by omega
  obtain ⟨h1, htail⟩ := tail86_of_le_four (Quad.all (seed.setWidth 32))
    (keyWords86 key (16 * (key.length / 16)) (tailBytes86 (key.length % 16))) hmod
  simp only [hash128X86, hdiv, hash128X86Blocks] at htail ⊢
  rw [htail]
  exact fin86_of_equal_lanes h1 (seed.setWidth 32) _

/-- Word `j` of a packed result. -/
theorem pack4_words (a : Quad U32) :
    (pack4 a).extractLsb' 32 32 = a.q1 ∧ (pack4 a).extractLsb' 64 32 = a.q2 ∧ (pack4 a).extractLsb' 96 32 = a.q3 := by
  have hdrop {w start : Nat} (hi : BitVec w) (lo : U32) (h : 32 ≤ start) :
      (hi ++ lo).extractLsb' start 32 = hi.extractLsb' (start - 32) 32 := BitVec.extractLsb'_append_eq_of_le h
  refine ⟨(hdrop _ _ (by decide)).trans BitVec.extractLsb'_append_eq_right,
    (hdrop _ _ (by decide)).trans ((hdrop _ _ (by decide)).trans BitVec.extractLsb'_append_eq_right),
    (hdrop _ _ (by decide)).trans ((hdrop _ _ (by decide)).trans BitVec.extractLsb'_append_eq_left)⟩

/-- Settles O42: as O41; and a key of at most 4 bytes mixes lane 1 only, after which lanes 2 to 4 stay equal. -/
theorem hash128X86Laws : Obligations.Hash128X86Laws := by
  refine ⟨by decide, fun key seed => hash128X86_congr_seed key ?_, fun seed => ?_, fun key seed _ hlen => ?_⟩
  · rw [← setWidth_eq_low, setWidth_setWidth_low]
  · rw [hash128X86_zeroByte, hash128X86_nil, fin86_eq_zero_length, setWidth_setWidth_low, setWidth_setWidth_low]
    rfl
  · obtain ⟨a, b, hd⟩ := hash128X86_of_short hlen seed
    obtain ⟨h1, h2, h3⟩ := pack4_words ⟨a, b, b, b⟩
    intro d
    simp only [d, hd, h1, h2, h3, and_self]

end Sys2Proof.Machine
end

section
/-! PROOFS. The boot sequence (70_reset_and_hazards.md R272, R275) meets no fault: where the host's program stands, what
it has written so far, and that every host or engine turn keeps that. -/

namespace Sys2Proof.Machine

open Claims

/-! ## The program, from its end -/

/-- What is left after the wait: STATUS, RES_LO and RES_HI are read. -/
def bootReads : List HostAction := [.rd 1, .rd 12, .rd 13]

/-- From the CMD write on. -/
def bootCommand (i : Instr) : List HostAction := .wr 0 ((encode i).setWidth 64) :: .wait :: bootReads

/-- From the write of KEY_LEN on, for a key of `n` bytes. -/
def bootLength (n : Nat) (seed : U64) (i : Instr) : List HostAction :=
  .wr 2 (BitVec.ofNat 64 n) :: .wr 3 seed :: bootCommand i

theorem bootSequence_eq (key : List Byte) (seed : U64) (i : Instr) :
    asmKey key ++ [.wr 3 seed] ++ asmRun i ++ [.rd 1, .rd 12, .rd 13] =
      asmBytes 0 key ++ bootLength key.length seed i := by
  simp [asmKey, asmRun, asmCmd, bootLength, bootCommand, bootReads]

/-- The write of a full hash's word accepts it, where its registers and its key bytes are written (R35). -/
theorem State.writeCmd_accepts {s : State} {i : Instr} (hi : i.fullHash = true) (hb : s.status.state ≠ .busy)
    (hp : s.eng.phase = .idle) (hseed : s.seed.written = true) (hlen : s.keyLen.written = true)
    (hl : s.keyLength ≤ s.cfg.bufBytes.toNat) (hk : ∀ a, a < s.keyLength → s.buf.read a ≠ none) :
    s.writeCmd (((encode i).setWidth 64).setWidth 32) = .next (accepted { s with cmd := encode i } i .init) := by
  have hword : ((encode i).setWidth 64).setWidth 32 = encode i := by simp
  rw [hword, State.writeCmd_of_decode_ok hb (decode_encode i)]
  exact (((acceptsHash hi { s with cmd := encode i } hp).2 hseed hlen).2 hl).2 hk

/-! ## The stages -/

/-- The block is at rest, so that the host may write, and the first `n` key bytes are written. -/
structure State.Prepared (s : State) (n : Nat) : Prop where
  ready : s.status.state ≠ .busy
  bytes : ∀ a, a < n → s.buf.read a ≠ none

/-- Where the boot sequence stands: the host writes the key bytes, then KEY_LEN, SEED and CMD; it waits for the command
that was accepted; it reads STATUS and RES of the command that is done. -/
inductive BootStage (key : List Byte) (seed : U64) (i : Instr) (s : State) : Prop where
  | bytes (off : Nat) (hprog : s.env.prog = asmBytes off (key.drop off) ++ bootLength key.length seed i)
      (ho : off ≤ key.length) (hs : s.Prepared off)
  | seed (hprog : s.env.prog = .wr 3 seed :: bootCommand i) (hs : s.Prepared key.length)
      (hlen : s.keyLen = ⟨BitVec.ofNat 32 key.length, true⟩)
  | command (hprog : s.env.prog = bootCommand i) (hs : s.Prepared key.length)
      (hlen : s.keyLen = ⟨BitVec.ofNat 32 key.length, true⟩) (hseed : s.seed.written = true)
  | waiting (hprog : s.env.prog = .wait :: bootReads) (hst : s.status.state = .busy ∨ s.status.state = .done)
  | reading (hprog : ∀ a ∈ s.env.prog, a ∈ bootReads) (hst : s.status.state = .done)

/-- The turn does not fault, and the boot sequence stands at a stage again. -/
abbrev BootTurn (key : List Byte) (seed : U64) (i : Instr) (s : State) : Prop :=
  ∃ t, step s = .next t ∧ t.faulted = none ∧ t.cfg = s.cfg ∧ BootStage key seed i t

/-- What every turn of the boot sequence keeps. -/
structure BootInv (key : List Byte) (seed : U64) (i : Instr) (s : State) : Prop where
  inv : s.Inv
  noFault : s.faulted = none
  fits : key.length ≤ s.cfg.bufBytes.toNat
  stage : BootStage key seed i s

section
variable {key : List Byte} {seed : U64} {i : Instr} {s : State}

theorem BootStage.popTurn (h : BootStage key seed i s) : BootStage key seed i s.popTurn := by
  cases h with
  | bytes off hprog ho hs => exact .bytes off hprog ho ⟨hs.ready, hs.bytes⟩
  | seed hprog hs hlen => exact .seed hprog ⟨hs.ready, hs.bytes⟩ hlen
  | command hprog hs hlen hseed => exact .command hprog ⟨hs.ready, hs.bytes⟩ hlen hseed
  | waiting hprog hst => exact .waiting hprog hst
  | reading hprog hst => exact .reading hprog hst

/-- While the command runs the host waits for it. -/
theorem BootStage.waiting_of_busy (h : BootStage key seed i s) (hb : s.status.state = .busy) :
    s.env.prog = .wait :: bootReads := by
  cases h with
  | bytes _ _ _ hs | seed _ hs | command _ hs => exact absurd hb hs.ready
  | waiting hprog => exact hprog
  | reading _ hst => cases hb.symm.trans hst

/-! ## An engine turn -/

theorem BootInv.step_engine (h : BootInv key seed i s) (ht : s.turn = .engine) : BootTurn key seed i s := by
  obtain ⟨hinv, hf, -, hstage⟩ := h
  by_cases hb : s.status.state = .busy
  · have hprog := hstage.waiting_of_busy hb
    obtain ⟨t, hexec⟩ := (hinv.frame s.faulted s.popTurn.env).exec_progress hb
    have hst : t.status.state = .busy ∨ t.status.state = .done := by
      obtain hst | hst := exec_status_running (s := s.popTurn) (hinv.phase_ne_idle hb) hexec
      · exact .inl (hst ▸ hb)
      · exact .inr (congrArg Status.state hst)
    have hstep : step s = .next t := by
      rw [Machine.step_engine hf ht hb]
      exact congrArg s.popTurn.settle hexec
    obtain ⟨st, r, e, rfl⟩ := exec_frame hexec
    exact ⟨_, hstep, hf, rfl, .waiting hprog hst⟩
  · exact ⟨_, step_engine_notBusy hf ht hb, hf, rfl, hstage.popTurn⟩

/-! ## A host turn, stage by stage -/

section
variable (hf : s.faulted = none) (ht : s.turn = .host)
include hf ht

/-- The next key byte is written (R64). -/
theorem BootStage.step_byte {off : Nat}
    (hprog : s.env.prog = asmBytes off (key.drop off) ++ bootLength key.length seed i) (ho : off < key.length)
    (hs : s.Prepared off) (hfits : key.length ≤ s.cfg.bufBytes.toNat) : BootTurn key seed i s := by
  rw [List.drop_eq_getElem_cons ho] at hprog
  have hbuf : off < s.cfg.bufBytes.toNat := by omega
  refine ⟨_, step_host_next hf ht hprog (State.hostWriteByte_of_not_busy hbuf hs.ready), hf, rfl,
    .bytes (off + 1) rfl ho ⟨hs.ready, fun a ha => ?_⟩⟩
  by_cases hoff : a = off
  · simp [hoff]
  · rw [State.setByte_buf, Memory.read_write_other _ _ hoff]
    exact hs.bytes a (by omega)

theorem step_wr_input {n : Nat} {v : U64} {r : Reg} {rest : List HostAction} (hprog : s.env.prog = .wr n v :: rest)
    (hr : Reg.ofNumber n = some r) (hin : r.isInput) (hb : s.status.state ≠ .busy) :
    step s = .next (State.setReg { s with env := ⟨rest, s.env.schedule.tail, s.env.reads⟩ } r v) :=
  step_host_next hf ht hprog ((State.hostWrite_input _ hr hin v).trans (if_neg (mt State.busy_iff.mp hb)))

/-- CMD is written: the command is accepted, for its registers and its key bytes are written (R35). -/
theorem BootStage.step_command (hi : i.fullHash = true) (hinv : s.Inv) (hprog : s.env.prog = bootCommand i)
    (hs : s.Prepared key.length) (hlen : s.keyLen = ⟨BitVec.ofNat 32 key.length, true⟩) (hseed : s.seed.written = true)
    (hfits : key.length ≤ s.cfg.bufBytes.toNat) : BootTurn key seed i s := by
  have hkey : s.keyLength = key.length := by
    have hlt := s.cfg.bufBytes.isLt
    rw [State.keyLength, hlen, BitVec.toNat_ofNat, Nat.mod_eq_of_lt (by omega)]
  let u : State := { s with env := ⟨.wait :: bootReads, s.env.schedule.tail, s.env.reads⟩ }
  have haccept := State.writeCmd_accepts (s := u) hi hs.ready (hinv.phaseIdle.mpr hs.ready) hseed
    (congrArg Marked.written hlen) (hkey.trans_le hfits) fun a ha => hs.bytes a (hkey ▸ ha)
  exact ⟨_, step_host_next hf ht hprog haccept, hf, rfl, .waiting rfl (.inl rfl)⟩

theorem BootStage.step_wait (hprog : s.env.prog = .wait :: bootReads)
    (hst : s.status.state = .busy ∨ s.status.state = .done) :
    BootTurn key seed i s := by
  obtain hb | hd := hst
  · exact ⟨_, step_host_next hf ht hprog (State.hostAction_wait_busy hb), hf, rfl, .waiting rfl (.inl hb)⟩
  · have hready : s.status.state ≠ .busy := by simp [hd]
    exact ⟨_, step_host_next hf ht hprog (State.hostAction_wait_ready hready), hf, rfl, .reading (fun _ => id) hd⟩

/-- Every read of the list answers, for the command is done and RES is written (R28). -/
theorem BootStage.step_read (hinv : s.Inv) (hprog : ∀ a ∈ s.env.prog, a ∈ bootReads) (hst : s.status.state = .done) :
    BootTurn key seed i s := by
  cases hlist : s.env.prog with
  | nil => exact ⟨_, step_noAction hf ht hlist, hf, rfl, .reading hprog hst⟩
  | cons a rest =>
    rw [hlist] at hprog
    have hready : s.status.state ≠ .busy := by simp [hst]
    have hres := hinv.result hst
    have hread : ∃ n v, a = .rd n ∧ s.hostRead n = .ok v := by
      have ha : a = .rd 1 ∨ a = .rd 12 ∨ a = .rd 13 := by simpa [bootReads] using hprog a List.mem_cons_self
      obtain rfl | rfl | rfl := ha
      · exact ⟨1, _, rfl, s.hostRead_status⟩
      · exact ⟨12, _, rfl, State.hostRead_written (r := .resLo) rfl hready hres⟩
      · exact ⟨13, _, rfl, State.hostRead_written (r := .resHi) rfl hready hres⟩
    obtain ⟨n, v, rfl, hok⟩ := hread
    exact ⟨_, step_host_next hf ht hlist (State.hostAction_rd_ok hok), hf, rfl,
      .reading (fun b hb => hprog b (List.mem_cons_of_mem _ hb)) hst⟩

end

theorem BootInv.step_host (hi : i.fullHash = true) (h : BootInv key seed i s) (ht : s.turn = .host) :
    BootTurn key seed i s := by
  obtain ⟨hinv, hf, hfits, hstage⟩ := h
  cases hstage with
  | bytes off hprog ho hs =>
    by_cases hlt : off < key.length
    · exact BootStage.step_byte hf ht hprog hlt hs hfits
    · obtain rfl : off = key.length := by omega
      rw [List.drop_length] at hprog
      have hlen : (BitVec.ofNat 64 key.length).setWidth 32 = BitVec.ofNat 32 key.length := by simp
      exact ⟨_, step_wr_input hf ht hprog (r := .keyLen) rfl ⟨⟨nofun, nofun, nofun⟩, nofun⟩ hs.ready, hf, rfl,
        .seed rfl ⟨hs.ready, hs.bytes⟩ (hlen ▸ rfl)⟩
  | seed hprog hs hlen =>
    exact ⟨_, step_wr_input hf ht hprog (r := .seed) rfl ⟨⟨nofun, nofun, nofun⟩, nofun⟩ hs.ready, hf, rfl,
      .command rfl ⟨hs.ready, hs.bytes⟩ hlen rfl⟩
  | command hprog hs hlen hseed => exact BootStage.step_command hf ht hi hinv hprog hs hlen hseed hfits
  | waiting hprog hst => exact BootStage.step_wait hf ht hprog hst
  | reading hprog hst => exact BootStage.step_read hf ht hinv hprog hst

/-! ## The run -/

/-- A host or engine turn of the boot sequence does not fault, and keeps what the sequence is in. -/
theorem BootInv.step (hi : i.fullHash = true) (h : BootInv key seed i s) (ht : s.turn ≠ .platform) :
    ∃ t, step s = .next t ∧ BootInv key seed i t := by
  have hturn : BootTurn key seed i s := by
    cases hagent : s.turn with
    | host => exact h.step_host hi hagent
    | engine => exact h.step_engine hagent
    | platform => exact absurd hagent ht
  obtain ⟨t, hstep, hf, hcfg, hstage⟩ := hturn
  exact ⟨t, hstep, h.inv.step hstep, hf, hcfg ▸ h.fits, hstage⟩

theorem State.turn_ne_platform (h : Agent.platform ∉ s.env.schedule) : s.turn ≠ .platform := by
  unfold State.turn
  split
  case h_1 a rest hsch =>
    rintro rfl
    exact h (hsch ▸ List.mem_cons_self)
  case h_2 =>
    split_ifs <;> decide

theorem BootInv.faultFreeFor (hi : i.fullHash = true) (h : BootInv key seed i s)
    (hplatform : Agent.platform ∉ s.env.schedule) (k : Nat) : FaultFreeFor k s := by
  induction k generalizing s with
  | zero => exact h.noFault
  | succ k ih =>
    obtain ⟨t, hstep, ht⟩ := h.step hi (State.turn_ne_platform hplatform)
    refine ⟨h.noFault, t, hstep, ih ht ?_⟩
    rw [step_schedule hstep]
    exact fun hmem => hplatform (List.mem_of_mem_tail hmem)

end

/-- Settles O58: reset starts the sequence with no byte written, and by induction on the steps no turn faults. -/
theorem bootSequenceNeverFaults : Obligations.BootSequenceNeverFaults := by
  intro cfg key seed i hi hfits schedule k hplatform
  rw [bootSequence_eq]
  refine BootInv.faultFreeFor (key := key) (seed := seed) (i := i) hi ⟨?_, rfl, hfits, ?_⟩ hplatform k
  · exact resetBlock_inv { State.reset with cfg := cfg, env := ⟨_, schedule, []⟩ }
  · exact .bytes 0 rfl (Nat.zero_le _) ⟨nofun, nofun⟩

end Sys2Proof.Machine
end
